-- ==== Sys2Proof/Word.lean ====
section
/-! DEFINITION. The value types of the block (00_scope.md R7, R9, R10) and their plainest arithmetic. -/

namespace Sys2Proof

/-- `u32`: an instruction word, a program counter, a start address, a count (R7, R10). -/
abbrev Word := BitVec 32

/-- One byte of the container stream (20_memory.md R40, R43). -/
abbrev Byte := BitVec 8

/-- `u5`: a register specifier or a shift amount (R7 `REG_BITS`, `SHAMT_BITS`). -/
abbrev Spec5 := BitVec 5

/-- A string of the formatter (45_formatter.md R165), as its list of characters. -/
abbrev Text := List Char

/-- `as_u32(v)`: v mod 2^32 (R10). -/
def asU32 (v : Int) : Word := BitVec.ofInt 32 v

/-- `as_s32(u)`: u − 2^32 when u ≥ 2^31, and u otherwise (R10). -/
def asS32 (u : Word) : Int :=
  if 2 ^ 31 ≤ u.toNat then (u.toNat : Int) - 2 ^ 32 else (u.toNat : Int)

end Sys2Proof
end

