-- ==== Sys2Proof/Syntax.lean ====
section
/-! DEFINITION. The instructions of spec/opcode_table.json (30_encoding.md R80, R81), the fields of a word (R75) and the decoded value (40_dispatch.md R101). -/

namespace Sys2Proof

/-- The 21 mnemonics (40_dispatch.md R101, `Mnemonic`). -/
inductive Mnemonic where
  | sll | sra | jr | mfhi | mflo | mult | div | addu | sub | subu | slt
  | j | jal | beq | bne | addiu | andi | lui | trap | lw | sw
  deriving DecidableEq, Repr

/-- All mnemonics, in the order of spec/opcode_table.json. -/
def Mnemonic.all : List Mnemonic :=
  [.sll, .sra, .jr, .mfhi, .mflo, .mult, .div, .addu, .sub, .subu, .slt,
   .j, .jal, .beq, .bne, .addiu, .andi, .lui, .trap, .lw, .sw]

/-- An instruction with the operands its row of the opcode table gives it. `simm` is the sign-extended immediate (an `s32`, R76); `addr` is the 26-bit field. -/
inductive Instr where
  | sll (rd rs shamt : Spec5)
  | sra (rd rs shamt : Spec5)
  | jr (rs : Spec5)
  | mfhi (rd : Spec5)
  | mflo (rd : Spec5)
  | mult (rd rt : Spec5)
  | div (rd rt : Spec5)
  | addu (rd rs rt : Spec5)
  | sub (rd rs rt : Spec5)
  | subu (rd rs rt : Spec5)
  | slt (rd rs rt : Spec5)
  | j (addr : BitVec 26)
  | jal (addr : BitVec 26)
  | beq (rs rt : Spec5) (simm : Int)
  | bne (rs rt : Spec5) (simm : Int)
  | addiu (rt rs : Spec5) (simm : Int)
  | andi (rt rs : Spec5) (simm : Int)
  | lui (rt : Spec5) (simm : Int)
  | trap (addr : BitVec 26)
  | lw (rt : Spec5) (simm : Int) (rs : Spec5)
  | sw (rt : Spec5) (simm : Int) (rs : Spec5)
  deriving DecidableEq, Repr

/-- The mnemonic of an instruction. -/
def Instr.mnemonic : Instr → Mnemonic
  | .sll _ _ _ => .sll
  | .sra _ _ _ => .sra
  | .jr _ => .jr
  | .mfhi _ => .mfhi
  | .mflo _ => .mflo
  | .mult _ _ => .mult
  | .div _ _ => .div
  | .addu _ _ _ => .addu
  | .sub _ _ _ => .sub
  | .subu _ _ _ => .subu
  | .slt _ _ _ => .slt
  | .j _ => .j
  | .jal _ => .jal
  | .beq _ _ _ => .beq
  | .bne _ _ _ => .bne
  | .addiu _ _ _ => .addiu
  | .andi _ _ _ => .andi
  | .lui _ _ => .lui
  | .trap _ => .trap
  | .lw _ _ _ => .lw
  | .sw _ _ _ => .sw

/-- The `Fields` record: all three views of a word at once (30_encoding.md R74, R75). -/
structure Fields where
  opcode : BitVec 6
  rs : Spec5
  rt : Spec5
  rd : Spec5
  shamt : Spec5
  funct : BitVec 6
  imm : BitVec 16
  simm : Int
  addr : BitVec 26
  deriving DecidableEq, Repr

/-- The decoder's output (40_dispatch.md R101): eleven shapes, a mnemonic with each that carries one. -/
inductive Decoded where
  | triad (m : Mnemonic) (rd rs rt : Spec5)
  | shift (m : Mnemonic) (rd rs shamt : Spec5)
  | single (m : Mnemonic) (r : Spec5)
  | pair (m : Mnemonic) (rd rt : Spec5)
  | regRegImm (m : Mnemonic) (rt rs : Spec5) (simm : Int)
  | regImm (m : Mnemonic) (rt : Spec5) (simm : Int)
  | memory (m : Mnemonic) (rt : Spec5) (simm : Int) (rs : Spec5)
  | absJump (m : Mnemonic) (target : Word)
  | branch (m : Mnemonic) (rs rt : Spec5) (target : Word)
  | trapAddr (m : Mnemonic) (addr : BitVec 26)
  | unrecognized
  deriving DecidableEq, Repr

end Sys2Proof
end

