-- ==== Sys2Proof/WellFormed.lean ====
section
/-! DEFINITION. Which instructions and which decoded values are well formed. -/

namespace Sys2Proof

/-- The range of a sign-extended 16-bit immediate, −32768 to 32767 (30_encoding.md R76). -/
def simmOk (simm : Int) : Bool := decide (-32768 ≤ simm ∧ simm ≤ 32767)

/-- A well-formed instruction: its immediate is in the range of R76. Every register specifier, shift amount and address field is
legal (R78), and their widths are in their types. -/
def Instr.wf : Instr → Bool
  | .sll _ _ _ => true
  | .sra _ _ _ => true
  | .jr _ => true
  | .mfhi _ => true
  | .mflo _ => true
  | .mult _ _ => true
  | .div _ _ => true
  | .addu _ _ _ => true
  | .sub _ _ _ => true
  | .subu _ _ _ => true
  | .slt _ _ _ => true
  | .j _ => true
  | .jal _ => true
  | .beq _ _ simm => simmOk simm
  | .bne _ _ simm => simmOk simm
  | .addiu _ _ simm => simmOk simm
  | .andi _ _ simm => simmOk simm
  | .lui _ simm => simmOk simm
  | .trap _ => true
  | .lw _ simm _ => simmOk simm
  | .sw _ simm _ => simmOk simm

/-- A well-formed decoded value: the mnemonic is one R101 lists beside the shape ("no other pairing is ever produced"), an
immediate is in R76's range, and a jump target's low two bits are 00 (R105). -/
def Decoded.wf : Decoded → Bool
  | .triad m _ _ _ => decide (m ∈ [Mnemonic.addu, .sub, .subu, .slt])
  | .shift m _ _ _ => decide (m ∈ [Mnemonic.sll, .sra])
  | .single m _ => decide (m ∈ [Mnemonic.jr, .mfhi, .mflo])
  | .pair m _ _ => decide (m ∈ [Mnemonic.mult, .div])
  | .regRegImm m _ _ simm => decide (m ∈ [Mnemonic.addiu, .andi]) && simmOk simm
  | .regImm m _ simm => decide (m = Mnemonic.lui) && simmOk simm
  | .memory m _ simm _ => decide (m ∈ [Mnemonic.lw, .sw]) && simmOk simm
  | .absJump m target => decide (m ∈ [Mnemonic.j, .jal]) && decide (target.toNat % 4 = 0)
  | .branch m _ _ _ => decide (m ∈ [Mnemonic.beq, .bne])
  | .trapAddr m _ => decide (m = Mnemonic.trap)
  | .unrecognized => true

end Sys2Proof
end

