-- ==== Sys2Proof/Decode.lean ====
section
/-! DEFINITION. Field extraction, the two dispatch tables, the decoder from words and from bytes, and the encoder. -/

namespace Sys2Proof

/-! ### Bit fields, sign extension, byte order -/

/-- `sext_32(v)` of a 16-bit value, by the arithmetic rule of 00_scope.md R11 and R12 (never by a signed shift, U1). -/
def sext32 (v : BitVec 16) : Int :=
  if 32768 ≤ v.toNat then (v.toNat : Int) - 65536 else (v.toNat : Int)

/-- Big-endian assembly (20_memory.md R41, R45): b0 supplies bits 31:24, b3 bits 7:0. Its value is
`b0 * 2^24 + b1 * 2^16 + b2 * 2^8 + b3`, which Laws/Encoding.lean proves (`toNat_beWord`). -/
def beWord (b0 b1 b2 b3 : Byte) : Word := (b0 ++ b1 ++ b2 ++ b3 : BitVec (8 + 8 + 8 + 8))

/-- The four bytes of a word in stream order, most significant first (R41). -/
def beBytes (w : Word) : List Byte :=
  [w.extractLsb' 24 8, w.extractLsb' 16 8, w.extractLsb' 8 8, w.extractLsb' 0 8]

/-- `extract(w)` (30_encoding.md R75): every field of the three views, from every word. -/
def extract (w : Word) : Fields where
  opcode := w.extractLsb' 26 6
  rs := w.extractLsb' 21 5
  rt := w.extractLsb' 16 5
  rd := w.extractLsb' 11 5
  shamt := w.extractLsb' 6 5
  funct := w.extractLsb' 0 6
  imm := w.extractLsb' 0 16
  simm := sext32 (w.extractLsb' 0 16)
  addr := w.extractLsb' 0 26

/-! ### The two dispatch tables, kept apart (R86) -/

/-- The R-type table, keyed by `funct` (R80). -/
def functTable (funct : BitVec 6) : Option Mnemonic :=
  match funct.toNat with
  | 0x00 => some .sll
  | 0x03 => some .sra
  | 0x08 => some .jr
  | 0x10 => some .mfhi
  | 0x12 => some .mflo
  | 0x18 => some .mult
  | 0x1a => some .div
  | 0x21 => some .addu
  | 0x22 => some .sub
  | 0x23 => some .subu
  | 0x2a => some .slt
  | _ => none

/-- The table of non-zero opcodes, keyed by `opcode` (R81). Opcode 0x00 is not in it. -/
def opcodeTable (opcode : BitVec 6) : Option Mnemonic :=
  match opcode.toNat with
  | 0x02 => some .j
  | 0x03 => some .jal
  | 0x04 => some .beq
  | 0x05 => some .bne
  | 0x09 => some .addiu
  | 0x0c => some .andi
  | 0x0f => some .lui
  | 0x1a => some .trap
  | 0x23 => some .lw
  | 0x2b => some .sw
  | _ => none

/-- Why bytes give no instruction. The last two are the spec's `Unrecognized` (R84), which is no error of the block: the machine
lists the placeholder token for them. -/
inductive DecodeReject where
  /-- Fewer than four bytes: every instruction is one 32-bit word (R70). -/
  | shortWord
  /-- Opcode 0x00 with a funct outside R80's table (R131). -/
  | unrecognizedFunct (funct : BitVec 6)
  /-- A non-zero opcode outside R81's table (R151). -/
  | unrecognizedOpcode (opcode : BitVec 6)
  deriving DecidableEq, Repr

/-- The operands each mnemonic takes, from the fields R77 names. -/
def instrOf (m : Mnemonic) (f : Fields) : Instr :=
  match m with
  | .sll => .sll f.rd f.rs f.shamt
  | .sra => .sra f.rd f.rs f.shamt
  | .jr => .jr f.rs
  | .mfhi => .mfhi f.rd
  | .mflo => .mflo f.rd
  | .mult => .mult f.rd f.rt
  | .div => .div f.rd f.rt
  | .addu => .addu f.rd f.rs f.rt
  | .sub => .sub f.rd f.rs f.rt
  | .subu => .subu f.rd f.rs f.rt
  | .slt => .slt f.rd f.rs f.rt
  | .j => .j f.addr
  | .jal => .jal f.addr
  | .beq => .beq f.rs f.rt f.simm
  | .bne => .bne f.rs f.rt f.simm
  | .addiu => .addiu f.rt f.rs f.simm
  | .andi => .andi f.rt f.rs f.simm
  | .lui => .lui f.rt f.simm
  | .trap => .trap f.addr
  | .lw => .lw f.rt f.simm f.rs
  | .sw => .sw f.rt f.simm f.rs

/-- The mnemonic the two-level dispatch selects (R79): by `funct` when the opcode is 0x00, else by `opcode` alone. -/
def selects (f : Fields) : Except DecodeReject Mnemonic :=
  if f.opcode = 0 then
    match functTable f.funct with
    | some m => .ok m
    | none => .error (.unrecognizedFunct f.funct)
  else
    match opcodeTable f.opcode with
    | some m => .ok m
    | none => .error (.unrecognizedOpcode f.opcode)

/-- The instruction a word stands for, or why it stands for none. -/
def decodeWord (w : Word) : Except DecodeReject Instr :=
  match selects (extract w) with
  | .ok m => .ok (instrOf m (extract w))
  | .error r => .error r

/-- The decoder on bytes in stream order: one word of four bytes, and the bytes after it. -/
def decodeBytes : List Byte → Except DecodeReject (Instr × List Byte)
  | b0 :: b1 :: b2 :: b3 :: rest =>
    match decodeWord (beWord b0 b1 b2 b3) with
    | .ok i => .ok (i, rest)
    | .error r => .error r
  | _ => .error .shortWord

/-- The host's question: the instruction whose bits, as spec/opcode_table.json numbers them, are `w`. Every row has 32 bits, so
`nbits` is 32; the word is laid out in the container's byte order and decoded from its bytes. -/
def decodeTableWord (_nbits w : Nat) : Option Instr :=
  match decodeBytes (beBytes (BitVec.ofNat 32 w)) with
  | .ok (i, _) => some i
  | .error _ => none

/-! ### The encoder, from the views of R71 to R73 -/

/-- A word of the R-type view with opcode 0x00 (R71). -/
def rWord (rs rt rd shamt : Spec5) (funct : BitVec 6) : Word :=
  (0#6 ++ rs ++ rt ++ rd ++ shamt ++ funct : BitVec (6 + 5 + 5 + 5 + 5 + 6))

/-- A word of the I-type view (R72), its 16 immediate bits taken from the low bits of the signed immediate. -/
def iWord (opcode : BitVec 6) (rs rt : Spec5) (simm : Int) : Word :=
  (opcode ++ rs ++ rt ++ BitVec.ofInt 16 simm : BitVec (6 + 5 + 5 + 16))

/-- A word of the J-type view (R73). -/
def jWord (opcode : BitVec 6) (addr : BitVec 26) : Word :=
  (opcode ++ addr : BitVec (6 + 26))

/-- The word of an instruction, with 0 in every bit its row does not use (R85 lets them be anything). -/
def encode : Instr → Word
  | .sll rd rs shamt => rWord rs 0 rd shamt 0x00
  | .sra rd rs shamt => rWord rs 0 rd shamt 0x03
  | .jr rs => rWord rs 0 0 0 0x08
  | .mfhi rd => rWord 0 0 rd 0 0x10
  | .mflo rd => rWord 0 0 rd 0 0x12
  | .mult rd rt => rWord 0 rt rd 0 0x18
  | .div rd rt => rWord 0 rt rd 0 0x1a
  | .addu rd rs rt => rWord rs rt rd 0 0x21
  | .sub rd rs rt => rWord rs rt rd 0 0x22
  | .subu rd rs rt => rWord rs rt rd 0 0x23
  | .slt rd rs rt => rWord rs rt rd 0 0x2a
  | .j addr => jWord 0x02 addr
  | .jal addr => jWord 0x03 addr
  | .beq rs rt simm => iWord 0x04 rs rt simm
  | .bne rs rt simm => iWord 0x05 rs rt simm
  | .addiu rt rs simm => iWord 0x09 rs rt simm
  | .andi rt rs simm => iWord 0x0c rs rt simm
  | .lui rt simm => iWord 0x0f 0 rt simm
  | .trap addr => jWord 0x1a addr
  | .lw rt simm rs => iWord 0x23 rs rt simm
  | .sw rt simm rs => iWord 0x2b rs rt simm

/-! ### The rows of the opcode map -/

/-- The `match` column of R80 and R81. -/
def rowMatch : Mnemonic → Word
  | .sll => 0x00000000
  | .sra => 0x00000003
  | .jr => 0x00000008
  | .mfhi => 0x00000010
  | .mflo => 0x00000012
  | .mult => 0x00000018
  | .div => 0x0000001A
  | .addu => 0x00000021
  | .sub => 0x00000022
  | .subu => 0x00000023
  | .slt => 0x0000002A
  | .j => 0x08000000
  | .jal => 0x0C000000
  | .beq => 0x10000000
  | .bne => 0x14000000
  | .addiu => 0x24000000
  | .andi => 0x30000000
  | .lui => 0x3C000000
  | .trap => 0x68000000
  | .lw => 0x8C000000
  | .sw => 0xAC000000

/-- The `mask` column of R80 (R-type rows) and R81 (the others). -/
def rowMask : Mnemonic → Word
  | .sll => 0xFC00003F
  | .sra => 0xFC00003F
  | .jr => 0xFC00003F
  | .mfhi => 0xFC00003F
  | .mflo => 0xFC00003F
  | .mult => 0xFC00003F
  | .div => 0xFC00003F
  | .addu => 0xFC00003F
  | .sub => 0xFC00003F
  | .subu => 0xFC00003F
  | .slt => 0xFC00003F
  | .j => 0xFC000000
  | .jal => 0xFC000000
  | .beq => 0xFC000000
  | .bne => 0xFC000000
  | .addiu => 0xFC000000
  | .andi => 0xFC000000
  | .lui => 0xFC000000
  | .trap => 0xFC000000
  | .lw => 0xFC000000
  | .sw => 0xFC000000

/-- The bits of a row's pattern that are not don't-care: its fixed bits and its operands' bits (R85, R89, and the patterns of
R120 to R130 and R140 to R150). -/
def usedBits : Mnemonic → Word
  | .sll => 0xFFE0FFFF   -- 000000 sssss ----- ddddd hhhhh FFFFFF
  | .sra => 0xFFE0FFFF
  | .jr => 0xFFE0003F    -- 000000 sssss ----- ----- ----- FFFFFF
  | .mfhi => 0xFC00F83F  -- 000000 ----- ----- ddddd ----- FFFFFF
  | .mflo => 0xFC00F83F
  | .mult => 0xFC1FF83F  -- 000000 ----- ttttt ddddd ----- FFFFFF
  | .div => 0xFC1FF83F
  | .addu => 0xFFFFF83F  -- 000000 sssss ttttt ddddd ----- FFFFFF
  | .sub => 0xFFFFF83F
  | .subu => 0xFFFFF83F
  | .slt => 0xFFFFF83F
  | .j => 0xFFFFFFFF
  | .jal => 0xFFFFFFFF
  | .beq => 0xFFFFFFFF
  | .bne => 0xFFFFFFFF
  | .addiu => 0xFFFFFFFF
  | .andi => 0xFFFFFFFF
  | .lui => 0xFC1FFFFF   -- 001111 ----- ttttt iiiiiiiiiiiiiiii
  | .trap => 0xFFFFFFFF
  | .lw => 0xFFFFFFFF
  | .sw => 0xFFFFFFFF

end Sys2Proof
end

