-- ==== Sys2Proof/Machine/Operands.lean ====
section
/-! DEFINITION. The operand computations of the decoder (40_dispatch.md R104 to R106) and the program counter rule (10_state.md R24). -/

namespace Sys2Proof.Machine

/-- `pc_i = (start + 4 * i) mod 2^32` (R24). -/
def pcAt (start : Word) (i : Nat) : Word := BitVec.ofNat 32 (start.toNat + 4 * i)

/-- `branchTarget(pc, simm) = (pc + 4 + simm * 4) mod 2^32`, summed on integers and then reduced (R104). -/
def branchTarget (pc : Word) (simm : Int) : Word :=
  BitVec.ofInt 32 ((pc.toNat : Int) + 4 + simm * 4)

/-- `jumpTarget(pc, addr) = (pc + 4) mod 2^32 & 0xF0000000 + zext_32(addr) << 2` (R105). -/
def jumpTarget (pc : Word) (addr : BitVec 26) : Word :=
  ((pc + 4#32) &&& 0xF0000000#32) + (addr.setWidth 32 <<< 2)

end Sys2Proof.Machine
end

