-- ==== Sys2Proof/Machine/Decoder.lean ====
section
/-! DEFINITION. The combinational decoder: a pc and a word in, one decoded value out (40_dispatch.md R100, R102). -/

namespace Sys2Proof.Machine

/-- R-type secondary dispatch on `funct` (R102, first branch). -/
def decodeRType (f : Fields) : Decoded :=
  if f.funct = 0x00 then .shift .sll f.rd f.rs f.shamt
  else if f.funct = 0x03 then .shift .sra f.rd f.rs f.shamt
  else if f.funct = 0x08 then .single .jr f.rs
  else if f.funct = 0x10 then .single .mfhi f.rd
  else if f.funct = 0x12 then .single .mflo f.rd
  else if f.funct = 0x18 then .pair .mult f.rd f.rt
  else if f.funct = 0x1a then .pair .div f.rd f.rt
  else if f.funct = 0x21 then .triad .addu f.rd f.rs f.rt
  else if f.funct = 0x22 then .triad .sub f.rd f.rs f.rt
  else if f.funct = 0x23 then .triad .subu f.rd f.rs f.rt
  else if f.funct = 0x2a then .triad .slt f.rd f.rs f.rt
  else .unrecognized

/-- I-type and J-type dispatch on `opcode` alone (R102, second branch). -/
def decodeByOpcode (pc : Word) (f : Fields) : Decoded :=
  if f.opcode = 0x02 then .absJump .j (jumpTarget pc f.addr)
  else if f.opcode = 0x03 then .absJump .jal (jumpTarget pc f.addr)
  else if f.opcode = 0x04 then .branch .beq f.rs f.rt (branchTarget pc f.simm)
  else if f.opcode = 0x05 then .branch .bne f.rs f.rt (branchTarget pc f.simm)
  else if f.opcode = 0x09 then .regRegImm .addiu f.rt f.rs f.simm
  else if f.opcode = 0x0c then .regRegImm .andi f.rt f.rs f.simm
  else if f.opcode = 0x0f then .regImm .lui f.rt f.simm
  else if f.opcode = 0x1a then .trapAddr .trap f.addr
  else if f.opcode = 0x23 then .memory .lw f.rt f.simm f.rs
  else if f.opcode = 0x2b then .memory .sw f.rt f.simm f.rs
  else .unrecognized

/-- `decode(pc, w)`, the two-level dispatch as R102 writes it. The machine runs a word through `decodeWord` and `exec`; that the
two agree is a statement of Certificates/Slice0/Obligations.lean. -/
def decode (pc w : Word) : Decoded :=
  let f := extract w
  if f.opcode = 0x00 then decodeRType f else decodeByOpcode pc f

end Sys2Proof.Machine
end

