-- ==== Sys2Proof/Machine/State.lean ====
section
/-! DEFINITION. The state of the block as plain data (10_state.md), the reasons a step can stop, and the state after reset. -/

namespace Sys2Proof.Machine

/-- `phase` of the container reader (10_state.md R28). -/
inductive Phase where
  | count | start | words | done | error
  deriving DecidableEq, Repr

/-- The reader's fatal errors (60_exceptions.md R190). `err = NONE` is `none` of the field `err`. -/
inductive ReaderError where
  | truncatedInput | ioError | capacityExceeded
  deriving DecidableEq, Repr

/-- What an error records (R192, R193, R194 with D18): the phase it occurred in, how many words were complete, how many bytes of the
incomplete field had arrived, and for `CapacityExceeded` the declared count as well. -/
structure ErrorInfo where
  phase : Phase
  index : Word
  nbytes : Fin 4
  declared : Option Word
  deriving DecidableEq, Repr

/-- What `NextEvent()` returns (20_memory.md R43): `Byte(b)`, `End`, `Fail`. -/
inductive InputEvent where
  | byte (b : Byte)
  | sourceEnd
  | fail
  deriving DecidableEq, Repr

/-- The words written to `buf` since the last reset (R28, R40: its defined entries), as (index, word), indices strictly rising. An
entry that is not listed holds a free word (R32: any value; `State.bufWord` in Ops.lean). -/
abbrev WordStore := List (Nat × Word)

/-- The canonical form of a word store: indices strictly rising, so that stores with the same written entries are equal lists
(log entry 2). -/
abbrev WordStore.wf (m : WordStore) : Prop := (m.map Prod.fst).Pairwise (· < ·)

/-- The machine's state. The first eight fields are the reader registers of R28; `info` is what R192 to R194 record; `input` is
the source's events not yet consumed (R43); `cursor` and `listing` are where the pass stands in producing the listing of
45_formatter.md R175 (the model's own fields, log entry 3). `resets` counts the resets since power-on, so that each reset leaves
other free words in `buf` (the model's own field, log entry 17). -/
structure State where
  phase : Phase
  nbytes : Fin 4
  acc : Word
  count : Word
  start : Word
  index : Word
  buf : WordStore
  err : Option ReaderError
  info : Option ErrorInfo
  input : List InputEvent
  cursor : Nat
  listing : Text
  resets : Nat
  deriving DecidableEq, Repr

/-- Why a step stops with a fault. It cannot happen from a state that keeps the reader's invariants (Safety.lean, `State.Inv`). -/
inductive Fault where
  /-- Raised by the reader when it would store a word, and by the driver's fetch when it would read one, at an index that `buf`, an
  array [0, CAP_WORDS), does not have (R28; log entry 10). Safe. -/
  | outsideBuffer
  deriving DecidableEq, Repr

/-- Why a step is refused. -/
inductive Refusal where
  /-- Raised by `exec` for an instruction that has no meaning yet (none is left). Safe. -/
  | notModelled (mnemonic : String)
  deriving DecidableEq, Repr

/-- The machine right after reset (10_state.md R32, 70_reset_and_hazards.md R210, R211), with no input placed. `info`, `input`,
`cursor`, `listing` and `resets` are not in R32's table (log entries 3, 4, 5 and 17). Nothing is written in `buf`, so each of its
entries holds a free word (R32, log entry 10). -/
def State.reset : State where
  phase := .count
  nbytes := 0
  acc := 0
  count := 0
  start := 0
  index := 0
  buf := []
  err := none
  info := none
  input := []
  cursor := 0
  listing := []
  resets := 0

end Sys2Proof.Machine
end

