-- ==== Sys2Proof/Machine/Flags.lean ====
section
/-! DEFINITION. The block has no flags (10_state.md R27); its only status is the reader's phase and error. Their outputs stand here. -/

namespace Sys2Proof.Machine

/-- `err_code` (60_exceptions.md R195): 0 for NONE, 1 `TruncatedInput`, 2 `IoError`, 3 `CapacityExceeded`. -/
def errCode : Option ReaderError → BitVec 2
  | none => 0
  | some .truncatedInput => 1
  | some .ioError => 2
  | some .capacityExceeded => 3

/-- The reader takes a step only in these phases (20_memory.md R43, R51). -/
def Phase.reading : Phase → Bool
  | .count => true
  | .start => true
  | .words => true
  | .done => false
  | .error => false

/-- A reader error has ended the pass, or the whole container has been listed (70_reset_and_hazards.md R214). -/
def State.ended (s : State) : Bool :=
  match s.phase with
  | .error => true
  | .done => decide (s.count.toNat ≤ s.cursor)
  | .count => false
  | .start => false
  | .words => false

/-- What a run shows (60_exceptions.md R202): the error, and the listing. -/
def State.observation (s : State) : Option ReaderError × Text := (s.err, s.listing)

end Sys2Proof.Machine
end

