-- ==== Sys2Proof/Config.lean ====
section
/-! DEFINITION. The open parameters of the spec (00_scope.md R8), as constants without a body: no proof can see their values, so every claim holds for every value. -/

namespace Sys2Proof

/-- `CAP_WORDS`: the most instruction words the container buffer holds, 0 ≤ CAP_WORDS ≤ 2^32 − 1 (R8, D5: OPEN; log entry 13). -/
opaque Config.capWords : Word

/-- The 26 entries of `REG_NAME` that the source does not fix (45_formatter.md R161, D11: OPEN; N1 says to assume nothing of them).
Formatter.lean's `regName` puts the six fixed entries over it. -/
opaque Config.otherRegName : Spec5 → Text

/-- The raw text of `UNRECOGNIZED_TOKEN` (R8, D12: OPEN). Formatter.lean's `unrecognizedToken` keeps it free of newlines, as R8 asks. -/
opaque Config.tokenText : Text

/-- What an entry of `buf` holds that nothing has written since a reset (10_state.md R32, U2: any value), by how many resets the
machine has had and the entry's index (log entry 10). -/
opaque Config.unwrittenWord : Nat → Nat → Word

end Sys2Proof
end

