-- ==== Sys2Proof/Machine/Formatter.lean ====
section
/-! DEFINITION. The formatter: a pc and a decoded value in, one line of text out (45_formatter.md R160 to R172). -/

namespace Sys2Proof.Machine

/-! ### Numbers as text -/

/-- The lowercase digit of a value below 16: `0-9a-f` (R162, R164 with D13). -/
def digitChar (d : Nat) : Char :=
  if d < 10 then Char.ofNat (48 + d) else Char.ofNat (87 + d)

/-- The digits of `n` in a base, most significant first, with no leading zeros; `fuel` bounds how many. -/
def digits (base : Nat) : Nat → Nat → Text
  | 0, _ => []
  | fuel + 1, n => if n < base then [digitChar n] else digits base fuel (n / base) ++ [digitChar (n % base)]

/-- The digits of a natural number: `n + 1` of fuel is more than it has digits, in any base above 1. -/
def natText (base n : Nat) : Text := digits base (n + 1) n

/-- `hex8(v)`: exactly 8 lowercase digits, zero-padded (R162). -/
def hex8 (v : Word) : Text :=
  [7, 6, 5, 4, 3, 2, 1, 0].map fun k => digitChar (v.toNat / 16 ^ k % 16)

/-- `hex(v)`: base 16, no leading zeros, no prefix, lowercase (R164). -/
def hex (v : Nat) : Text := natText 16 v

/-- `dec(v)`: base 10, no leading zeros, `-` before a negative value, no sign otherwise (R163). -/
def dec (v : Int) : Text :=
  if v < 0 then '-' :: natText 10 v.natAbs else natText 10 v.natAbs

/-! ### Names and the token -/

/-- The six entries of `REG_NAME` that the source fixes (R161). -/
def fixedRegName (i : Spec5) : Option Text :=
  match i.toNat with
  | 8 => some "$t0".toList
  | 9 => some "$t1".toList
  | 16 => some "$s0".toList
  | 17 => some "$s1".toList
  | 29 => some "$sp".toList
  | 31 => some "$ra".toList
  | _ => none

/-- `REG_NAME`: the six fixed entries, and any newline-free text for the other 26 (R160, R161; log entry 7). -/
def regName (i : Spec5) : Text :=
  match fixedRegName i with
  | some name => name
  | none => (Config.otherRegName i).filter (· != '\n')

/-- `UNRECOGNIZED_TOKEN`: any text with no newline (R8, R172; log entry 8). -/
def unrecognizedToken : Text := Config.tokenText.filter (· != '\n')

/-- R161's default of `REG_NAME`, the conventional MIPS table. The machine does not use it: its `regName` leaves 26 entries free. -/
def defaultRegName (i : Spec5) : Text :=
  ((["$zero", "$at", "$v0", "$v1", "$a0", "$a1", "$a2", "$a3",
     "$t0", "$t1", "$t2", "$t3", "$t4", "$t5", "$t6", "$t7",
     "$s0", "$s1", "$s2", "$s3", "$s4", "$s5", "$s6", "$s7",
     "$t8", "$t9", "$k0", "$k1", "$gp", "$sp", "$fp", "$ra"] : List String).getD i.toNat "").toList

/-- The lowercase spelling of a mnemonic (R168). -/
def mnemonicText : Mnemonic → Text
  | .sll => "sll".toList
  | .sra => "sra".toList
  | .jr => "jr".toList
  | .mfhi => "mfhi".toList
  | .mflo => "mflo".toList
  | .mult => "mult".toList
  | .div => "div".toList
  | .addu => "addu".toList
  | .sub => "sub".toList
  | .subu => "subu".toList
  | .slt => "slt".toList
  | .j => "j".toList
  | .jal => "jal".toList
  | .beq => "beq".toList
  | .bne => "bne".toList
  | .addiu => "addiu".toList
  | .andi => "andi".toList
  | .lui => "lui".toList
  | .trap => "trap".toList
  | .lw => "lw".toList
  | .sw => "sw".toList

/-! ### Lines -/

/-- Operands separated by `", "` (R167). -/
def commaSep : List Text → Text
  | [] => []
  | [t] => t
  | t :: ts => t ++ ", ".toList ++ commaSep ts

/-- One space between the mnemonic and the first operand (R167). -/
def withOperands (m : Mnemonic) (operands : List Text) : Text :=
  mnemonicText m ++ " ".toList ++ commaSep operands

/-- `offset(base)` with no space between them (R171). -/
def memoryText (R : Spec5 → Text) (simm : Int) (rs : Spec5) : Text :=
  dec simm ++ "(".toList ++ R rs ++ ")".toList

/-- `body(dec)` by shape (R170, R172), for a name table `R` and a token. -/
def body (R : Spec5 → Text) (token : Text) : Decoded → Text
  | .triad m rd rs rt => withOperands m [R rd, R rs, R rt]
  | .shift m rd rs shamt => withOperands m [R rd, R rs, dec shamt.toNat]
  | .single m r => withOperands m [R r]
  | .pair m rd rt => withOperands m [R rd, R rt]
  | .regRegImm m rt rs simm => withOperands m [R rt, R rs, dec simm]
  | .regImm m rt simm => withOperands m [R rt, dec simm]
  | .memory m rt simm rs => withOperands m [R rt, memoryText R simm rs]
  | .absJump m target => withOperands m [hex target.toNat]
  | .branch m rs rt target => withOperands m [R rs, R rt, hex target.toNat]
  | .trapAddr m addr => withOperands m [hex addr.toNat]
  | .unrecognized => token

/-- `format(pc, dec) = hex8(pc) ++ ": " ++ body(dec)` (R160, R166), for a name table and a token. -/
def formatWith (R : Spec5 → Text) (token : Text) (pc : Word) (d : Decoded) : Text :=
  hex8 pc ++ ": ".toList ++ body R token d

/-- `format(pc, dec)` with the machine's parameters. -/
def format (pc : Word) (d : Decoded) : Text := formatWith regName unrecognizedToken pc d

end Sys2Proof.Machine
end

