-- ==== Sys2Proof/Machine/Ops.lean ====
section
/-! DEFINITION. The named operations: the word store, raising a reader error and the reset that alone leaves it, the reader's step, listing a line, and loading a container from outside. -/

namespace Sys2Proof.Machine

/-! ### The word store -/

/-- The word written at an index since the last reset, if there is one: R28's defined entries. -/
def WordStore.read (m : WordStore) (k : Nat) : Option Word :=
  match m with
  | [] => none
  | (k', v) :: rest => if k = k' then some v else WordStore.read rest k

/-- `buf[k] <- v`, keeping the indices strictly rising. -/
def WordStore.write (m : WordStore) (k : Nat) (v : Word) : WordStore :=
  match m with
  | [] => [(k, v)]
  | (k', v') :: rest =>
    if k < k' then (k, v) :: (k', v') :: rest
    else if k = k' then (k, v) :: rest
    else (k', v') :: WordStore.write rest k v

/-- `buf[k]` of a buffer of `cap` words (R28, an array [0, `cap`) of words): the word written there, and otherwise the free word that
R32 lets a reset leave. At an index outside the array there is none. -/
def State.bufWord (cap : Word) (s : State) (k : Nat) : Option Word :=
  match s.buf.read k with
  | some w => some w
  | none => if k < cap.toNat then some (Config.unwrittenWord s.resets k) else none

/-! ### The program counter, a view of `start` and the cursor (10_state.md R24: not stored) -/

/-- The pc of the word the pass lists next. -/
def State.pc (s : State) : Word := pcAt s.start s.cursor

/-! ### Reader errors (60_exceptions.md) -/

/-- `raise E(info)`: `err <- E; phase <- ERROR`, and the recorded information; everything else as it stands (R191, R199). -/
def State.raise (e : ReaderError) (info : ErrorInfo) (s : State) : State :=
  { s with err := some e, phase := .error, info := some info }

/-- What `TruncatedInput` and `IoError` record (R192, R193). -/
def State.site (s : State) : ErrorInfo :=
  { phase := s.phase, index := s.index, nbytes := s.nbytes, declared := none }

/-- What `CapacityExceeded` records: the same, and the declared count (R194, D18). -/
def State.siteWithCount (s : State) : ErrorInfo := { s.site with declared := some s.count }

/-- Reset, the only way out of an error (R200; 70_reset_and_hazards.md R210): every reader register at its value of R32, in any
phase. The source's pending events are not the block's to change (R57), so they stay (log entry 12).
Whatever `buf` held, its entries are any words afterwards (R32, log entries 10 and 17). -/
def State.applyReset (s : State) : State := { State.reset with input := s.input, resets := s.resets + 1 }

/-! ### The container reader (20_memory.md R44 to R48) -/

/-- A byte that does not complete its field (R44). -/
def State.gather (acc : Word) (s : State) : State := { s with acc := acc, nbytes := s.nbytes + 1 }

/-- The byte that completes a field: `acc <- 0; nbytes <- 0` (R44). -/
def State.takeField (s : State) : State := { s with acc := 0, nbytes := 0 }

/-- `count <- v; phase <- START` (R46). -/
def State.latchCount (v : Word) (s : State) : State := { s with count := v, phase := .start }

/-- `start <- v` (R44, R47). -/
def State.latchStart (v : Word) (s : State) : State := { s with start := v }

/-- `phase <- p`. -/
def State.enter (p : Phase) (s : State) : State := { s with phase := p }

/-- `buf[index] <- v; index <- index + 1` (R48). -/
def State.putWord (v : Word) (s : State) : State :=
  { s with buf := s.buf.write s.index.toNat v, index := s.index + 1 }

/-- `end_of_header()`, for a buffer of `cap` words (R47, R194). -/
def endOfHeader (cap : Word) (s : State) : State :=
  if cap.toNat < s.count.toNat then s.raise .capacityExceeded s.siteWithCount
  else if s.count = 0 then s.enter .done
  else s.enter .words

/-- `store_word(v)` (R48). `buf` has the indices below `cap` only (R28). -/
def storeWord (cap v : Word) (s : State) : Host.Outcome State Fault Refusal :=
  if s.index.toNat < cap.toNat then
    let s' := s.putWord v
    .next (if s'.index = s'.count then s'.enter .done else s')
  else .fault .outsideBuffer

/-- What a completed four-byte value `v` does, by phase (R44). In `DONE` and `ERROR` the reader takes no step (R51). -/
def completeField (cap v : Word) (s : State) : Host.Outcome State Fault Refusal :=
  match s.phase with
  | .count => .next (s.latchCount v)
  | .start => .next (endOfHeader cap (s.latchStart v))
  | .words => storeWord cap v s
  | .done => .next s
  | .error => .next s

/-- `acc <- ((acc << 8) + zext_32(b)) mod 2^32` (R44, R45). -/
def shiftIn (acc : Word) (b : Byte) : Word := (acc <<< 8) + b.setWidth 32

/-- The reader's step on one event, for a buffer of `cap` words (R44, R49, R50). -/
def readEvent (cap : Word) (e : InputEvent) (s : State) : Host.Outcome State Fault Refusal :=
  match e with
  | .fail => .next (s.raise .ioError s.site)
  | .sourceEnd => .next (s.raise .truncatedInput s.site)
  | .byte b =>
    if s.nbytes.val < 3 then .next (s.gather (shiftIn s.acc b))
    else completeField cap (shiftIn s.acc b) s.takeField

/-- One reader step of the machine: it takes the next event of the source. With none pending it waits (log entry 5). -/
def readStep (s : State) : Host.Outcome State Fault Refusal :=
  match s.input with
  | [] => .next s
  | e :: rest => readEvent Config.capWords e { s with input := rest }

/-- A whole event sequence through the reader, for a buffer of `cap` words; events after reading has ended are not taken (R51). -/
def feed (cap : Word) (es : List InputEvent) (s : State) : Host.Outcome State Fault Refusal :=
  match es with
  | [] => .next s
  | e :: rest =>
    if s.phase.reading then
      match readEvent cap e s with
      | .next t => feed cap rest t
      | .fault r => .fault r
      | .refused r => .refused r
    else .next s

/-! ### The listing (45_formatter.md R175) -/

/-- One listing line with its newline, the byte 0x0A (R175). -/
def lineOf (pc : Word) (d : Decoded) : Text := format pc d ++ ['\n']

/-- The line goes to the listing and the pass moves to the next word (R24, R25: by one word, whatever was decoded). -/
def State.list (d : Decoded) (s : State) : State :=
  { s with listing := s.listing ++ lineOf s.pc d, cursor := s.cursor + 1 }

/-- The shared effect of every instruction: its decoded value is listed, and nothing else happens (00_scope.md R5;
60_exceptions.md R197). -/
def emit (d : Decoded) (s : State) : Host.Outcome State Fault Refusal := .next (s.list d)

/-- The word the pass lists next (R175, `C.words[i]`), from a buffer of `cap` words. -/
def fetchWord (cap : Word) (s : State) : Option Word := s.bufWord cap s.cursor

/-! ### Loading from outside -/

/-- A container of the one word `w`, read to its end, with the pass before its first word. -/
def loadOneWord (w : Word) (s : State) : State :=
  { s with phase := .done, err := none, info := none, count := 1, index := 1, buf := [(0, w)], cursor := 0 }

end Sys2Proof.Machine
end

