-- ==== Sys2Proof/Machine/Control.lean ====
section
/-! DEFINITION. The jumps, the branches and `trap` (42_itype_jtype.md, sections 1 and 3). None moves the pc (10_state.md R25). -/

namespace Sys2Proof.Machine

/-- `j` (R140, R105, R106). -/
def execJ (addr : BitVec 26) (s : State) : Host.Outcome State Fault Refusal :=
  emit (.absJump .j (jumpTarget s.pc addr)) s

/-- `jal` (R141: no link register is written). -/
def execJal (addr : BitVec 26) (s : State) : Host.Outcome State Fault Refusal :=
  emit (.absJump .jal (jumpTarget s.pc addr)) s

/-- `beq` (R142, R104, R106: no comparison is made). -/
def execBeq (rs rt : Spec5) (simm : Int) (s : State) : Host.Outcome State Fault Refusal :=
  emit (.branch .beq rs rt (branchTarget s.pc simm)) s

/-- `bne` (R143, R104, R106). -/
def execBne (rs rt : Spec5) (simm : Int) (s : State) : Host.Outcome State Fault Refusal :=
  emit (.branch .bne rs rt (branchTarget s.pc simm)) s

/-- `trap` (R147, R197: rendered, not taken). -/
def execTrap (addr : BitVec 26) (s : State) : Host.Outcome State Fault Refusal :=
  emit (.trapAddr .trap addr) s

/-- A word in neither dispatch table (30_encoding.md R84, R131, R151; 60_exceptions.md R196): its line holds the token, and the pass goes on. -/
def execUnrecognized (s : State) : Host.Outcome State Fault Refusal :=
  emit .unrecognized s

end Sys2Proof.Machine
end

