-- ==== Sys2Proof/Machine/IType.lean ====
section
/-! DEFINITION. The immediate and memory-form instructions (42_itype_jtype.md, sections 2 and 4). -/

namespace Sys2Proof.Machine

/-- `addiu` (R144). -/
def execAddiu (rt rs : Spec5) (simm : Int) (s : State) : Host.Outcome State Fault Refusal :=
  emit (.regRegImm .addiu rt rs simm) s

/-- `andi` (R145: the sign-extended immediate). -/
def execAndi (rt rs : Spec5) (simm : Int) (s : State) : Host.Outcome State Fault Refusal :=
  emit (.regRegImm .andi rt rs simm) s

/-- `lui` (R146: the immediate as it stands, not shifted by 16). -/
def execLui (rt : Spec5) (simm : Int) (s : State) : Host.Outcome State Fault Refusal :=
  emit (.regImm .lui rt simm) s

/-- `lw` (R148, R149: no address is computed). -/
def execLw (rt : Spec5) (simm : Int) (rs : Spec5) (s : State) : Host.Outcome State Fault Refusal :=
  emit (.memory .lw rt simm rs) s

/-- `sw` (R148, R150: no address is computed). -/
def execSw (rt : Spec5) (simm : Int) (rs : Spec5) (s : State) : Host.Outcome State Fault Refusal :=
  emit (.memory .sw rt simm rs) s

end Sys2Proof.Machine
end

