-- ==== Sys2Proof/Machine/RType.lean ====
section
/-! DEFINITION. The R-type instructions (41_rtype.md): each lists its decoded value; none reads or writes a register. -/

namespace Sys2Proof.Machine

/-- `sll` (R120). -/
def execSll (rd rs shamt : Spec5) (s : State) : Host.Outcome State Fault Refusal :=
  emit (.shift .sll rd rs shamt) s

/-- `sra` (R121). -/
def execSra (rd rs shamt : Spec5) (s : State) : Host.Outcome State Fault Refusal :=
  emit (.shift .sra rd rs shamt) s

/-- `jr` (R122: no target is computed and the pc is not changed). -/
def execJr (rs : Spec5) (s : State) : Host.Outcome State Fault Refusal :=
  emit (.single .jr rs) s

/-- `mfhi` (R123). -/
def execMfhi (rd : Spec5) (s : State) : Host.Outcome State Fault Refusal :=
  emit (.single .mfhi rd) s

/-- `mflo` (R124). -/
def execMflo (rd : Spec5) (s : State) : Host.Outcome State Fault Refusal :=
  emit (.single .mflo rd) s

/-- `mult` (R125). -/
def execMult (rd rt : Spec5) (s : State) : Host.Outcome State Fault Refusal :=
  emit (.pair .mult rd rt) s

/-- `div` (R126). -/
def execDiv (rd rt : Spec5) (s : State) : Host.Outcome State Fault Refusal :=
  emit (.pair .div rd rt) s

/-- `addu` (R127). -/
def execAddu (rd rs rt : Spec5) (s : State) : Host.Outcome State Fault Refusal :=
  emit (.triad .addu rd rs rt) s

/-- `sub` (R128). -/
def execSub (rd rs rt : Spec5) (s : State) : Host.Outcome State Fault Refusal :=
  emit (.triad .sub rd rs rt) s

/-- `subu` (R129). -/
def execSubu (rd rs rt : Spec5) (s : State) : Host.Outcome State Fault Refusal :=
  emit (.triad .subu rd rs rt) s

/-- `slt` (R130). -/
def execSlt (rd rs rt : Spec5) (s : State) : Host.Outcome State Fault Refusal :=
  emit (.triad .slt rd rs rt) s

end Sys2Proof.Machine
end

