-- ==== Sys2Proof/Machine/Dispatch.lean ====
section
/-! DEFINITION. One arm for every instruction. -/

namespace Sys2Proof.Machine

def exec (i : Instr) (s : State) : Host.Outcome State Fault Refusal :=
  match i with
  | .sll rd rs shamt => Sys2Proof.Machine.execSll rd rs shamt s
  | .sra rd rs shamt => Sys2Proof.Machine.execSra rd rs shamt s
  | .jr rs => Sys2Proof.Machine.execJr rs s
  | .mfhi rd => Sys2Proof.Machine.execMfhi rd s
  | .mflo rd => Sys2Proof.Machine.execMflo rd s
  | .mult rd rt => Sys2Proof.Machine.execMult rd rt s
  | .div rd rt => Sys2Proof.Machine.execDiv rd rt s
  | .addu rd rs rt => Sys2Proof.Machine.execAddu rd rs rt s
  | .sub rd rs rt => Sys2Proof.Machine.execSub rd rs rt s
  | .subu rd rs rt => Sys2Proof.Machine.execSubu rd rs rt s
  | .slt rd rs rt => Sys2Proof.Machine.execSlt rd rs rt s
  | .j addr => Sys2Proof.Machine.execJ addr s
  | .jal addr => Sys2Proof.Machine.execJal addr s
  | .beq rs rt simm => Sys2Proof.Machine.execBeq rs rt simm s
  | .bne rs rt simm => Sys2Proof.Machine.execBne rs rt simm s
  | .addiu rt rs simm => Sys2Proof.Machine.execAddiu rt rs simm s
  | .andi rt rs simm => Sys2Proof.Machine.execAndi rt rs simm s
  | .lui rt simm => Sys2Proof.Machine.execLui rt simm s
  | .trap addr => Sys2Proof.Machine.execTrap addr s
  | .lw rt simm rs => Sys2Proof.Machine.execLw rt simm rs s
  | .sw rt simm rs => Sys2Proof.Machine.execSw rt simm rs s

end Sys2Proof.Machine
end

