-- ==== Sys2Proof/Machine/Driver.lean ====
section
/-! DEFINITION. The pass over a container that has been read: fetch the next word, decode it, run its meaning (70_reset_and_hazards.md R214; 45_formatter.md R175). -/

namespace Sys2Proof.Machine

/-- One word through the decoder and its meaning. A word in neither table is no error (30_encoding.md R84). -/
def runWord (w : Word) (s : State) : Host.Outcome State Fault Refusal :=
  match decodeWord w with
  | .ok i => exec i s
  | .error _ => execUnrecognized s

/-- One step in phase `DONE`, for a buffer of `cap` words: the next word's line, or nothing once all `count` words are listed (R175,
R214). -/
def listStep (cap : Word) (s : State) : Host.Outcome State Fault Refusal :=
  if s.cursor < s.count.toNat then
    match fetchWord cap s with
    | some w => runWord w s
    | none => .fault .outsideBuffer
  else .next s

end Sys2Proof.Machine
end

