-- ==== Sys2Proof/Machine/Step.lean ====
section
/-! DEFINITION. One step of the machine, by the reader's phase. -/

namespace Sys2Proof.Machine

/-- A step: the reader takes one event while it reads; no word is decoded before `DONE` (70_reset_and_hazards.md R215); an error
is permanent (60_exceptions.md R200). -/
def step (s : State) : Host.Outcome State Fault Refusal :=
  match s.phase with
  | .count => readStep s
  | .start => readStep s
  | .words => readStep s
  | .done => listStep Config.capWords s
  | .error => .next s

/-- The state in which the very next step fetches the word `w` (all rows have 32 bits): a one-word container that has been read,
at the state's own start address (log entry 9). -/
def State.withFetchWord (s : State) (_nbits w : Nat) : State := loadOneWord (BitVec.ofNat 32 w) s

end Sys2Proof.Machine
end

