-- ==== Sys2Proof/Machine/Container.lean ====
section
/-! DEFINITION. The container as a value: what the reader presents (10_state.md R29), the reader's functional form (20_memory.md R52), the listing of a container (45_formatter.md R175) and what a whole pass shows (R202). -/

namespace Sys2Proof.Machine

/-- The container record (R29). -/
structure Container where
  count : Word
  start : Word
  words : List Word
  deriving DecidableEq, Repr

/-- The terminal event of a source (R52): `End` or `Fail`. -/
inductive Terminal where
  | sourceEnd | fail
  deriving DecidableEq, Repr

/-- The terminal event as an input event. -/
def Terminal.event : Terminal → InputEvent
  | .sourceEnd => .sourceEnd
  | .fail => .fail

/-- The error a short source yields (R52, `err_short`). -/
def Terminal.shortError : Terminal → ReaderError
  | .sourceEnd => .truncatedInput
  | .fail => .ioError

/-- A source as the events it gives: its bytes, then its terminal event (R43, R52). -/
def eventsOf (bytes : List Byte) (t : Terminal) : List InputEvent := bytes.map .byte ++ [t.event]

/-- The start of a pass: reset, with the source at the container's first byte (70_reset_and_hazards.md R213). -/
def State.boot (input : List InputEvent) : State := { State.reset with input := input }

/-- The four-byte big-endian value at a byte offset of the stream (R41). -/
def wordAt (bytes : List Byte) (offset : Nat) : Word :=
  beWord (bytes.getD offset 0) (bytes.getD (offset + 1) 0) (bytes.getD (offset + 2) 0) (bytes.getD (offset + 3) 0)

/-- `readContainer(s, t)` for a buffer of `cap` words (R52). -/
def readContainer (cap : Word) (bytes : List Byte) (t : Terminal) : Except ReaderError Container :=
  if bytes.length < 8 then .error t.shortError
  else if cap.toNat < (wordAt bytes 0).toNat then .error .capacityExceeded
  else if bytes.length < 8 + 4 * (wordAt bytes 0).toNat then .error t.shortError
  else .ok
    { count := wordAt bytes 0
      start := wordAt bytes 4
      words := (List.range (wordAt bytes 0).toNat).map fun k => wordAt bytes (8 + 4 * k) }

/-- The defined words of `buf`, in index order. -/
def State.words (s : State) : List Word := s.buf.map Prod.snd

/-- The container the reader presents: in phase `DONE` only (R29). -/
def State.container (s : State) : Option Container :=
  match s.phase with
  | .done => some { count := s.count, start := s.start, words := s.words }
  | .count => none
  | .start => none
  | .words => none
  | .error => none

/-- How reading ended: a container, an error, or not yet. -/
def State.result (s : State) : Option (Except ReaderError Container) :=
  match s.container with
  | some c => some (.ok c)
  | none => s.err.map .error

/-- The listing line of word `i`: `format(pc_i, decode(pc_i, words[i])) ++ "\n"` (R175). -/
def lineAt (start : Word) (words : List Word) (i : Nat) : Text :=
  match words[i]? with
  | some w => lineOf (pcAt start i) (decode (pcAt start i) w)
  | none => []

/-- The first `k` lines of a listing, in container order (R175). -/
def linesUpTo (start : Word) (words : List Word) (k : Nat) : Text :=
  (List.range k).flatMap (lineAt start words)

/-- `listing(C)`: one line for each of the N words (R175). -/
def listingOf (c : Container) : Text := linesUpTo c.start c.words c.count.toNat

/-- What a whole pass over a source shows: the error and the listing, empty when reading ended in an error (R175, R201, R202). -/
def passResult (cap : Word) (bytes : List Byte) (t : Terminal) : Option ReaderError × Text :=
  match readContainer cap bytes t with
  | .ok c => (none, listingOf c)
  | .error e => (some e, [])

end Sys2Proof.Machine
end

