-- ==== Sys2Proof/Safety.lean ====
section
/-! DEFINITION. What counts as a safe run, in the terms the statements use: the reader's invariants (10_state.md R28), a state that presents a word, and how number text reads back. -/

namespace Sys2Proof.Machine

/-! ### Invariants -/

/-- `err ≠ NONE` exactly when `phase = ERROR` (R28), and an error's information is recorded exactly then. -/
def State.ErrorInv (s : State) : Prop :=
  (s.err.isSome = true ↔ s.phase = .error) ∧ (s.info.isSome = true ↔ s.phase = .error)

/-- R28's relations between `index` and `count`, read inside the phases they are about (log entry 11), and what each phase has
latched: before `WORDS` nothing is stored, in `WORDS` there is a word to come and room for all, in `DONE` all are stored. -/
def State.CountInv (s : State) : Prop :=
  s.index.toNat ≤ s.count.toNat ∧
  (s.phase = .count → s.count = 0 ∧ s.start = 0 ∧ s.index = 0) ∧
  (s.phase = .start → s.start = 0 ∧ s.index = 0) ∧
  (s.phase = .words → s.index.toNat < s.count.toNat ∧ s.count.toNat ≤ Config.capWords.toNat) ∧
  (s.phase = .done → s.index = s.count)

/-- `acc` holds the `nbytes` bytes gathered, and nothing once reading has ended well (R28, R44). -/
def State.AccInv (s : State) : Prop :=
  s.acc.toNat < 256 ^ s.nbytes.val ∧ (s.phase = .done → s.nbytes = 0)

/-- The defined entries of `buf` are [0, `index`) (R28). -/
def State.StoreInv (s : State) : Prop := s.buf.map Prod.fst = List.range s.index.toNat

/-- The listing holds the first `cursor` lines of R175's listing, and nothing before `DONE` (R215). -/
def State.ListingInv (s : State) : Prop :=
  s.cursor ≤ s.count.toNat ∧
  (s.phase ≠ .done → s.cursor = 0) ∧
  s.listing = linesUpTo s.start s.words s.cursor

/-- After `End` or `Fail` the source yields no further events (20_memory.md R43). -/
def sourceWf : List InputEvent → Bool
  | [] => true
  | .byte _ :: rest => sourceWf rest
  | .sourceEnd :: rest => rest.isEmpty
  | .fail :: rest => rest.isEmpty

/-- The machine's invariant. -/
def State.Inv (s : State) : Prop :=
  s.ErrorInv ∧ s.CountInv ∧ s.AccInv ∧ s.StoreInv ∧ s.ListingInv ∧ sourceWf s.input = true

/-! ### Presenting a word -/

/-- The pass is about to list the word `w`: the container is read, a word is left, and the store holds `w` at the cursor (R29, R215). -/
def Presents (s : State) (w : Word) : Prop :=
  s.phase = .done ∧ s.cursor < s.count.toNat ∧ fetchWord Config.capWords s = some w

/-- The state after the line `pc: t` is listed: the line and its newline at the end of the listing, the pass at the next word, and
nothing else changed (R166, R175). -/
def printed (s : State) (t : Text) : State :=
  { s with listing := s.listing ++ (hex8 s.pc ++ ": ".toList ++ t ++ "\n".toList), cursor := s.cursor + 1 }

/-- The next state of an outcome, if it has one. -/
def nextOf : Host.Outcome State Fault Refusal → Option State
  | .next s => some s
  | .fault _ => none
  | .refused _ => none

/-! ### Reading number text back -/

/-- The value of a digit `0-9a-f`; any other character has none. -/
def digitValue (c : Char) : Option Nat :=
  if 48 ≤ c.toNat ∧ c.toNat ≤ 57 then some (c.toNat - 48)
  else if 97 ≤ c.toNat ∧ c.toNat ≤ 102 then some (c.toNat - 87)
  else none

/-- The value a text of digits spells in a base, most significant digit first; none if a character is no digit of the base or
there is no digit. -/
def valueFrom (base : Nat) (a : Nat) : Text → Option Nat
  | [] => some a
  | c :: t =>
    match digitValue c with
    | some d => if d < base then valueFrom base (base * a + d) t else none
    | none => none

/-- The value a non-empty text of digits spells in a base. -/
def textValue (base : Nat) (t : Text) : Option Nat :=
  if t = [] then none else valueFrom base 0 t

/-- No leading zero but the zero that stands alone (R163, R164). -/
def noLeadingZero (t : Text) : Prop := t = ['0'] ∨ t.head? ≠ some '0'

end Sys2Proof.Machine
end

