-- ==== Sys2Proof/Certificates/Slice0/Obligations.lean ====
section
/-! DEFINITION. The statements for the provers, one `def Obligations.<Name> : Prop` each. -/

open Sys2Proof Sys2Proof.Machine

/-! ### Encoding -/

/-- 95_test_vectors.md sections 1, 2.5 and 2.6: words written out from the spec's encodings stand for their instructions, and words
in neither table are rejected by name. -/
def Obligations.SpecWordsDecodeToTheirInstructions : Prop :=
  decodeWord 0x02114021 = .ok (.addu 8 16 17) ∧
  decodeWord 0x02204FC3 = .ok (.sra 9 17 31) ∧
  decodeWord 0x0211481A = .ok (.div 9 17) ∧
  decodeWord 0x8FA90004 = .ok (.lw 9 4 29) ∧
  decodeWord 0x1109FFFF = .ok (.beq 8 9 (-1)) ∧
  decodeWord 0x08100000 = .ok (.j 0x100000) ∧
  decodeWord 0x6BFFFFFF = .ok (.trap 0x3FFFFFF) ∧
  decodeWord 0x00000009 = .error (.unrecognizedFunct 0x09) ∧
  decodeWord 0xFC000000 = .error (.unrecognizedOpcode 0x3f)

/-- R75 with the views of R71 to R73: each field is the unsigned value of its bits, and `simm` is the 16-bit field read as
two's complement. -/
def Obligations.ExtractedFieldsAreTheirBits : Prop :=
  ∀ w : Word,
    (extract w).opcode.toNat = w.toNat / 2 ^ 26 ∧
    (extract w).rs.toNat = w.toNat / 2 ^ 21 % 2 ^ 5 ∧
    (extract w).rt.toNat = w.toNat / 2 ^ 16 % 2 ^ 5 ∧
    (extract w).rd.toNat = w.toNat / 2 ^ 11 % 2 ^ 5 ∧
    (extract w).shamt.toNat = w.toNat / 2 ^ 6 % 2 ^ 5 ∧
    (extract w).funct.toNat = w.toNat % 2 ^ 6 ∧
    (extract w).imm.toNat = w.toNat % 2 ^ 16 ∧
    (extract w).addr.toNat = w.toNat % 2 ^ 26 ∧
    (extract w).simm =
      if w.toNat / 2 ^ 15 % 2 = 1 then ((w.toNat % 2 ^ 16 : Nat) : Int) - 65536 else ((w.toNat % 2 ^ 16 : Nat) : Int)

/-- R11 and R76: `sext_32` keeps the 16 bits, fills the upper 16 with bit 15, and lies in −32768..32767. -/
def Obligations.SignExtensionWidensKeepingTheLowBits : Prop :=
  ∀ v : BitVec 16,
    (asU32 (sext32 v)).extractLsb' 0 16 = v ∧
    (asU32 (sext32 v)).extractLsb' 16 16 = (if v.getLsbD 15 then 0xFFFF#16 else 0#16) ∧
    asS32 (asU32 (sext32 v)) = sext32 v ∧
    sext32 v = (if 32768 ≤ v.toNat then (v.toNat : Int) - 65536 else (v.toNat : Int)) ∧
    -32768 ≤ sext32 v ∧ sext32 v ≤ 32767

/-- Decode and encode agree: every well-formed instruction, with every operand at every value its encoding admits, comes back from
its word, and from its word's bytes whatever follows them. -/
def Obligations.EncodedInstructionsDecodeBack : Prop :=
  ∀ i : Instr, i.wf = true →
    decodeWord (encode i) = .ok i ∧
    ∀ rest : List Byte, decodeBytes (beBytes (encode i) ++ rest) = .ok (i, rest)

/-- The other direction: a word that decodes gives a well-formed instruction, whose own word is the first with its don't-care bits
cleared. -/
def Obligations.DecodingLosesOnlyDontCareBits : Prop :=
  ∀ (w : Word) (i : Instr), decodeWord w = .ok i →
    i.wf = true ∧ encode i = w &&& usedBits i.mnemonic

/-- The match and mask columns of R80 and R81: a word encodes a row's instruction exactly when `(w & mask) = match`. -/
def Obligations.WordsDecodeToTheRowTheyMatch : Prop :=
  ∀ (w : Word) (m : Mnemonic),
    w &&& rowMask m = rowMatch m ↔ ∃ i, decodeWord w = .ok i ∧ i.mnemonic = m

/-- R85 (an inference the spec draws): two words that agree on the bits a row uses decode alike at every pc. -/
def Obligations.UnusedBitsDoNotMatter : Prop :=
  ∀ (pc w w' : Word) (m : Mnemonic),
    w &&& rowMask m = rowMatch m → w' &&& usedBits m = w &&& usedBits m →
    decodeWord w' = decodeWord w ∧ decode pc w' = decode pc w

/-- R101's pairing: whatever the word, the decoder's value pairs a mnemonic with its own shape, carries an immediate in range and a
jump target whose low two bits are 00. -/
def Obligations.DecodedValuesPairMnemonicsWithTheirShapes : Prop :=
  ∀ pc w : Word, (decode pc w).wf = true

/-- R103: the result depends on the pc only through the two targets; every other shape is the same at every pc. -/
def Obligations.DecodeReadsThePcOnlyForTargets : Prop :=
  ∀ pc pc' w : Word,
    (∀ m t, decode pc w ≠ .absJump m t) → (∀ m rs rt t, decode pc w ≠ .branch m rs rt t) →
    decode pc' w = decode pc w

/-- R79 and R86: the mnemonic is selected by funct under opcode 0x00 and by the opcode alone elsewhere; 0x1a, 0x03 and 0x23 name
different instructions in the two tables, and 0x00 is a key of the funct table only. -/
def Obligations.TheTwoTablesAreKeptApart : Prop :=
  (∀ w w' : Word, (extract w).opcode ≠ 0 → (extract w').opcode = (extract w).opcode →
    selects (extract w') = selects (extract w)) ∧
  (∀ w w' : Word, (extract w).opcode = 0 → (extract w').opcode = 0 → (extract w').funct = (extract w).funct →
    selects (extract w') = selects (extract w)) ∧
  functTable 0x1a = some .div ∧ opcodeTable 0x1a = some .trap ∧
  functTable 0x03 = some .sra ∧ opcodeTable 0x03 = some .jal ∧
  functTable 0x23 = some .subu ∧ opcodeTable 0x23 = some .lw ∧
  functTable 0x00 = some .sll ∧ opcodeTable 0x00 = none

/-! ### Targets -/

/-- R104: the branch target is the integer sum reduced mod 2^32, which is the 32-bit sum with the shifted immediate; the offset from
pc + 4 is −131072..131068, and the low two bits are those of the pc. -/
def Obligations.BranchTargetsAreThirtyTwoBitSums : Prop :=
  (∀ (pc : Word) (simm : Int),
    ((branchTarget pc simm).toNat : Int) = ((pc.toNat : Int) + 4 + simm * 4) % 2 ^ 32) ∧
  ∀ (pc : Word) (imm : BitVec 16),
    branchTarget pc (sext32 imm) = pc + 4#32 + (asU32 (sext32 imm) <<< 2) ∧
    (branchTarget pc (sext32 imm)).toNat % 4 = pc.toNat % 4 ∧
    -131072 ≤ sext32 imm * 4 ∧ sext32 imm * 4 ≤ 131068

/-- R105: bits 31:28 come from pc + 4, bits 27:2 from `addr`, bits 1:0 are 0, the sum is a bitwise OR; and the region of pc + 4 is
another than that of pc exactly when pc is 0x?FFFFFFC to 0x?FFFFFFF. -/
def Obligations.JumpTargetsJoinRegionAndAddress : Prop :=
  ∀ (pc : Word) (addr : BitVec 26),
    (jumpTarget pc addr).extractLsb' 28 4 = (pc + 4#32).extractLsb' 28 4 ∧
    (jumpTarget pc addr).extractLsb' 2 26 = addr ∧
    (jumpTarget pc addr).extractLsb' 0 2 = 0 ∧
    jumpTarget pc addr = ((pc + 4#32) &&& 0xF0000000#32) ||| (addr.setWidth 32 <<< 2) ∧
    ((pc + 4#32).extractLsb' 28 4 ≠ pc.extractLsb' 28 4 ↔ 0xFFFFFFC ≤ pc.toNat % 2 ^ 28)

/-! ### Text -/

/-- R162: `hex8` is exactly eight lowercase hexadecimal digits that read back as the value. -/
def Obligations.HexEightIsEightDigitsOfTheValue : Prop :=
  ∀ v : Word, (hex8 v).length = 8 ∧ textValue 16 (hex8 v) = some v.toNat

/-- R164, its lowercase digits being decision D13: `hex` spells the value with no leading zero. -/
def Obligations.HexSpellsTheValueWithoutLeadingZeros : Prop :=
  ∀ n : Nat, textValue 16 (hex n) = some n ∧ noLeadingZero (hex n)

/-- R163, its sign being decision D14: `dec` spells the magnitude with no leading zero, after a `-` exactly when the value is
negative. -/
def Obligations.DecSpellsTheSignedValue : Prop :=
  (∀ n : Nat, textValue 10 (dec n) = some n ∧ noLeadingZero (dec n)) ∧
  ∀ n : Nat, 0 < n → dec (-(n : Int)) = '-' :: dec n

/-- R160: the string the formatter returns holds no newline; the listing's line adds it. -/
def Obligations.FormattedLinesHoldNoNewline : Prop :=
  ∀ (pc : Word) (d : Decoded), '\n' ∉ format pc d ∧ lineOf pc d = format pc d ++ ['\n']

/-- R165: every character the formatter writes is one of the ASCII characters the rule lists, or stands in the name table or in the
token. -/
def Obligations.FormattedTextIsAscii : Prop :=
  ∀ (R : Spec5 → Text) (token : Text) (pc : Word) (d : Decoded), ∀ c ∈ formatWith R token pc d,
    (c ∈ "0123456789abcdefghijklmnopqrstuvwxyz$-:, ()".toList ∧ c.toNat < 128) ∨ (∃ i, c ∈ R i) ∨ c ∈ token

/-- R161: the six entries the source fixes, and the default table's 32 entries (the spec marks 26 of them as general knowledge; the
machine leaves those free). -/
def Obligations.RegisterNamesAgreeWithTheFixedEntries : Prop :=
  regName 8 = "$t0".toList ∧ regName 9 = "$t1".toList ∧ regName 16 = "$s0".toList ∧
  regName 17 = "$s1".toList ∧ regName 29 = "$sp".toList ∧ regName 31 = "$ra".toList ∧
  (∀ (i : Spec5) (t : Text), fixedRegName i = some t → regName i = t ∧ defaultRegName i = t) ∧
  (List.range 32).map (fun n => String.ofList (defaultRegName (BitVec.ofNat 5 n))) =
    ["$zero", "$at", "$v0", "$v1", "$a0", "$a1", "$a2", "$a3", "$t0", "$t1", "$t2", "$t3", "$t4", "$t5", "$t6", "$t7",
     "$s0", "$s1", "$s2", "$s3", "$s4", "$s5", "$s6", "$s7", "$t8", "$t9", "$k0", "$k1", "$gp", "$sp", "$fp", "$ra"]

/-- R166 and R170: a line is the pc, a colon and a space, and the body of the shape, for every name table and token. -/
def Obligations.LinesFollowTheBodyOfEachShape : Prop :=
  ∀ (R : Spec5 → Text) (token : Text) (pc : Word),
    (∀ d, formatWith R token pc d = hex8 pc ++ ": ".toList ++ body R token d) ∧
    (∀ m rd rs rt, body R token (.triad m rd rs rt) =
      mnemonicText m ++ " ".toList ++ R rd ++ ", ".toList ++ R rs ++ ", ".toList ++ R rt) ∧
    (∀ m rd rs shamt, body R token (.shift m rd rs shamt) =
      mnemonicText m ++ " ".toList ++ R rd ++ ", ".toList ++ R rs ++ ", ".toList ++ dec shamt.toNat) ∧
    (∀ m r, body R token (.single m r) = mnemonicText m ++ " ".toList ++ R r) ∧
    (∀ m rd rt, body R token (.pair m rd rt) = mnemonicText m ++ " ".toList ++ R rd ++ ", ".toList ++ R rt) ∧
    (∀ m rt rs simm, body R token (.regRegImm m rt rs simm) =
      mnemonicText m ++ " ".toList ++ R rt ++ ", ".toList ++ R rs ++ ", ".toList ++ dec simm) ∧
    (∀ m rt simm, body R token (.regImm m rt simm) =
      mnemonicText m ++ " ".toList ++ R rt ++ ", ".toList ++ dec simm) ∧
    (∀ m rt simm rs, body R token (.memory m rt simm rs) =
      mnemonicText m ++ " ".toList ++ R rt ++ ", ".toList ++ dec simm ++ "(".toList ++ R rs ++ ")".toList) ∧
    (∀ m target, body R token (.absJump m target) = mnemonicText m ++ " ".toList ++ hex target.toNat) ∧
    (∀ m rs rt target, body R token (.branch m rs rt target) =
      mnemonicText m ++ " ".toList ++ R rs ++ ", ".toList ++ R rt ++ ", ".toList ++ hex target.toNat) ∧
    (∀ m addr, body R token (.trapAddr m addr) = mnemonicText m ++ " ".toList ++ hex addr.toNat) ∧
    body R token .unrecognized = token

/-! ### The instructions -/

/-- R120, R121: `sll` and `sra` take rd, rs and shamt from their bits, ignore rt, and list one line. -/
def Obligations.ShiftsListRdRsShamt : Prop :=
  (∀ (s : State) (rd rs shamt : Spec5),
    exec (.sll rd rs shamt) s = .next (printed s ("sll ".toList ++ regName rd ++ ", ".toList ++ regName rs ++
      ", ".toList ++ dec shamt.toNat)) ∧
    exec (.sra rd rs shamt) s = .next (printed s ("sra ".toList ++ regName rd ++ ", ".toList ++ regName rs ++
      ", ".toList ++ dec shamt.toNat))) ∧
  ∀ (s : State) (w : Word), Presents s w →
    (w &&& 0xFC00003F = 0x00000000 →
      decode s.pc w = .shift .sll (w.extractLsb' 11 5) (w.extractLsb' 21 5) (w.extractLsb' 6 5) ∧
      step s = exec (.sll (w.extractLsb' 11 5) (w.extractLsb' 21 5) (w.extractLsb' 6 5)) s) ∧
    (w &&& 0xFC00003F = 0x00000003 →
      decode s.pc w = .shift .sra (w.extractLsb' 11 5) (w.extractLsb' 21 5) (w.extractLsb' 6 5) ∧
      step s = exec (.sra (w.extractLsb' 11 5) (w.extractLsb' 21 5) (w.extractLsb' 6 5)) s)

/-- R122: `jr` takes rs and lists one line; no target is computed and the pc does not jump. -/
def Obligations.JrListsRs : Prop :=
  (∀ (s : State) (rs : Spec5), exec (.jr rs) s = .next (printed s ("jr ".toList ++ regName rs))) ∧
  ∀ (s : State) (w : Word), Presents s w → w &&& 0xFC00003F = 0x00000008 →
    decode s.pc w = .single .jr (w.extractLsb' 21 5) ∧
    step s = exec (.jr (w.extractLsb' 21 5)) s

/-- R123, R124: `mfhi` and `mflo` take rd and list one line. -/
def Obligations.MovesFromHiLoListRd : Prop :=
  (∀ (s : State) (rd : Spec5),
    exec (.mfhi rd) s = .next (printed s ("mfhi ".toList ++ regName rd)) ∧
    exec (.mflo rd) s = .next (printed s ("mflo ".toList ++ regName rd))) ∧
  ∀ (s : State) (w : Word), Presents s w →
    (w &&& 0xFC00003F = 0x00000010 →
      decode s.pc w = .single .mfhi (w.extractLsb' 11 5) ∧ step s = exec (.mfhi (w.extractLsb' 11 5)) s) ∧
    (w &&& 0xFC00003F = 0x00000012 →
      decode s.pc w = .single .mflo (w.extractLsb' 11 5) ∧ step s = exec (.mflo (w.extractLsb' 11 5)) s)

/-- R125, R126: `mult` and `div` take rd and rt, ignore rs, and list one line; nothing is computed. -/
def Obligations.MultAndDivListRdRt : Prop :=
  (∀ (s : State) (rd rt : Spec5),
    exec (.mult rd rt) s = .next (printed s ("mult ".toList ++ regName rd ++ ", ".toList ++ regName rt)) ∧
    exec (.div rd rt) s = .next (printed s ("div ".toList ++ regName rd ++ ", ".toList ++ regName rt))) ∧
  ∀ (s : State) (w : Word), Presents s w →
    (w &&& 0xFC00003F = 0x00000018 →
      decode s.pc w = .pair .mult (w.extractLsb' 11 5) (w.extractLsb' 16 5) ∧
      step s = exec (.mult (w.extractLsb' 11 5) (w.extractLsb' 16 5)) s) ∧
    (w &&& 0xFC00003F = 0x0000001A →
      decode s.pc w = .pair .div (w.extractLsb' 11 5) (w.extractLsb' 16 5) ∧
      step s = exec (.div (w.extractLsb' 11 5) (w.extractLsb' 16 5)) s)

/-- R127 to R130: `addu`, `sub`, `subu` and `slt` take rd, rs and rt, ignore shamt, and list one line. -/
def Obligations.TriadsListRdRsRt : Prop :=
  (∀ (s : State) (rd rs rt : Spec5),
    exec (.addu rd rs rt) s = .next (printed s ("addu ".toList ++ regName rd ++ ", ".toList ++ regName rs ++
      ", ".toList ++ regName rt)) ∧
    exec (.sub rd rs rt) s = .next (printed s ("sub ".toList ++ regName rd ++ ", ".toList ++ regName rs ++
      ", ".toList ++ regName rt)) ∧
    exec (.subu rd rs rt) s = .next (printed s ("subu ".toList ++ regName rd ++ ", ".toList ++ regName rs ++
      ", ".toList ++ regName rt)) ∧
    exec (.slt rd rs rt) s = .next (printed s ("slt ".toList ++ regName rd ++ ", ".toList ++ regName rs ++
      ", ".toList ++ regName rt))) ∧
  ∀ (s : State) (w : Word), Presents s w →
    (w &&& 0xFC00003F = 0x00000021 →
      decode s.pc w = .triad .addu (w.extractLsb' 11 5) (w.extractLsb' 21 5) (w.extractLsb' 16 5) ∧
      step s = exec (.addu (w.extractLsb' 11 5) (w.extractLsb' 21 5) (w.extractLsb' 16 5)) s) ∧
    (w &&& 0xFC00003F = 0x00000022 →
      decode s.pc w = .triad .sub (w.extractLsb' 11 5) (w.extractLsb' 21 5) (w.extractLsb' 16 5) ∧
      step s = exec (.sub (w.extractLsb' 11 5) (w.extractLsb' 21 5) (w.extractLsb' 16 5)) s) ∧
    (w &&& 0xFC00003F = 0x00000023 →
      decode s.pc w = .triad .subu (w.extractLsb' 11 5) (w.extractLsb' 21 5) (w.extractLsb' 16 5) ∧
      step s = exec (.subu (w.extractLsb' 11 5) (w.extractLsb' 21 5) (w.extractLsb' 16 5)) s) ∧
    (w &&& 0xFC00003F = 0x0000002A →
      decode s.pc w = .triad .slt (w.extractLsb' 11 5) (w.extractLsb' 21 5) (w.extractLsb' 16 5) ∧
      step s = exec (.slt (w.extractLsb' 11 5) (w.extractLsb' 21 5) (w.extractLsb' 16 5)) s)

/-- R140, R141: `j` and `jal` list their absolute target in hex, in the region of their own pc + 4; no register is written and the
pass goes on with the next word. -/
def Obligations.JumpsListTheirTarget : Prop :=
  (∀ (s : State) (addr : BitVec 26),
    exec (.j addr) s = .next (printed s ("j ".toList ++
      hex (((s.pc + 4#32) &&& 0xF0000000#32) + (addr.setWidth 32 <<< 2)).toNat)) ∧
    exec (.jal addr) s = .next (printed s ("jal ".toList ++
      hex (((s.pc + 4#32) &&& 0xF0000000#32) + (addr.setWidth 32 <<< 2)).toNat))) ∧
  ∀ (s : State) (w : Word), Presents s w →
    (w &&& 0xFC000000 = 0x08000000 →
      decode s.pc w = .absJump .j (jumpTarget s.pc (w.extractLsb' 0 26)) ∧ step s = exec (.j (w.extractLsb' 0 26)) s) ∧
    (w &&& 0xFC000000 = 0x0C000000 →
      decode s.pc w = .absJump .jal (jumpTarget s.pc (w.extractLsb' 0 26)) ∧ step s = exec (.jal (w.extractLsb' 0 26)) s)

/-- R142, R143: `beq` and `bne` list rs, rt and their target in hex, computed from their own pc; no comparison is made and the pass
goes on with the next word. -/
def Obligations.BranchesListRsRtAndTarget : Prop :=
  (∀ (s : State) (rs rt : Spec5) (simm : Int),
    exec (.beq rs rt simm) s = .next (printed s ("beq ".toList ++ regName rs ++ ", ".toList ++ regName rt ++ ", ".toList ++
      hex (BitVec.ofInt 32 ((s.pc.toNat : Int) + 4 + simm * 4)).toNat)) ∧
    exec (.bne rs rt simm) s = .next (printed s ("bne ".toList ++ regName rs ++ ", ".toList ++ regName rt ++ ", ".toList ++
      hex (BitVec.ofInt 32 ((s.pc.toNat : Int) + 4 + simm * 4)).toNat))) ∧
  ∀ (s : State) (w : Word), Presents s w →
    (w &&& 0xFC000000 = 0x10000000 →
      decode s.pc w =
        .branch .beq (w.extractLsb' 21 5) (w.extractLsb' 16 5) (branchTarget s.pc (sext32 (w.extractLsb' 0 16))) ∧
      step s = exec (.beq (w.extractLsb' 21 5) (w.extractLsb' 16 5) (sext32 (w.extractLsb' 0 16))) s) ∧
    (w &&& 0xFC000000 = 0x14000000 →
      decode s.pc w =
        .branch .bne (w.extractLsb' 21 5) (w.extractLsb' 16 5) (branchTarget s.pc (sext32 (w.extractLsb' 0 16))) ∧
      step s = exec (.bne (w.extractLsb' 21 5) (w.extractLsb' 16 5) (sext32 (w.extractLsb' 0 16))) s)

/-- R144, R145: `addiu` and `andi` list rt, rs and the sign-extended immediate in decimal. -/
def Obligations.RegisterImmediatesListRtRsSimm : Prop :=
  (∀ (s : State) (rt rs : Spec5) (simm : Int),
    exec (.addiu rt rs simm) s = .next (printed s ("addiu ".toList ++ regName rt ++ ", ".toList ++ regName rs ++
      ", ".toList ++ dec simm)) ∧
    exec (.andi rt rs simm) s = .next (printed s ("andi ".toList ++ regName rt ++ ", ".toList ++ regName rs ++
      ", ".toList ++ dec simm))) ∧
  ∀ (s : State) (w : Word), Presents s w →
    (w &&& 0xFC000000 = 0x24000000 →
      decode s.pc w = .regRegImm .addiu (w.extractLsb' 16 5) (w.extractLsb' 21 5) (sext32 (w.extractLsb' 0 16)) ∧
      step s = exec (.addiu (w.extractLsb' 16 5) (w.extractLsb' 21 5) (sext32 (w.extractLsb' 0 16))) s) ∧
    (w &&& 0xFC000000 = 0x30000000 →
      decode s.pc w = .regRegImm .andi (w.extractLsb' 16 5) (w.extractLsb' 21 5) (sext32 (w.extractLsb' 0 16)) ∧
      step s = exec (.andi (w.extractLsb' 16 5) (w.extractLsb' 21 5) (sext32 (w.extractLsb' 0 16))) s)

/-- R146: `lui` lists rt and the sign-extended immediate in decimal, not shifted; rs is ignored. -/
def Obligations.LuiListsRtSimm : Prop :=
  (∀ (s : State) (rt : Spec5) (simm : Int),
    exec (.lui rt simm) s = .next (printed s ("lui ".toList ++ regName rt ++ ", ".toList ++ dec simm))) ∧
  ∀ (s : State) (w : Word), Presents s w → w &&& 0xFC000000 = 0x3C000000 →
    decode s.pc w = .regImm .lui (w.extractLsb' 16 5) (sext32 (w.extractLsb' 0 16)) ∧
    step s = exec (.lui (w.extractLsb' 16 5) (sext32 (w.extractLsb' 0 16))) s

/-- R147: `trap` lists its raw 26-bit field in hex, unscaled; no trap is raised. -/
def Obligations.TrapListsItsRawAddress : Prop :=
  (∀ (s : State) (addr : BitVec 26),
    exec (.trap addr) s = .next (printed s ("trap ".toList ++ hex addr.toNat))) ∧
  ∀ (s : State) (w : Word), Presents s w → w &&& 0xFC000000 = 0x68000000 →
    decode s.pc w = .trapAddr .trap (w.extractLsb' 0 26) ∧
    step s = exec (.trap (w.extractLsb' 0 26)) s

/-- R149, R150 with R148's operand form: `lw` and `sw` list rt and offset(base), the offset in signed decimal; no access is made. -/
def Obligations.LoadsAndStoresListRtAndOffsetBase : Prop :=
  (∀ (s : State) (rt rs : Spec5) (simm : Int),
    exec (.lw rt simm rs) s = .next (printed s ("lw ".toList ++ regName rt ++ ", ".toList ++ dec simm ++
      "(".toList ++ regName rs ++ ")".toList)) ∧
    exec (.sw rt simm rs) s = .next (printed s ("sw ".toList ++ regName rt ++ ", ".toList ++ dec simm ++
      "(".toList ++ regName rs ++ ")".toList))) ∧
  ∀ (s : State) (w : Word), Presents s w →
    (w &&& 0xFC000000 = 0x8C000000 →
      decode s.pc w = .memory .lw (w.extractLsb' 16 5) (sext32 (w.extractLsb' 0 16)) (w.extractLsb' 21 5) ∧
      step s = exec (.lw (w.extractLsb' 16 5) (sext32 (w.extractLsb' 0 16)) (w.extractLsb' 21 5)) s) ∧
    (w &&& 0xFC000000 = 0xAC000000 →
      decode s.pc w = .memory .sw (w.extractLsb' 16 5) (sext32 (w.extractLsb' 0 16)) (w.extractLsb' 21 5) ∧
      step s = exec (.sw (w.extractLsb' 16 5) (sext32 (w.extractLsb' 0 16)) (w.extractLsb' 21 5)) s)

/-- R84, R131, R151, R196: a word decodes to `unrecognized` exactly when its opcode, or its funct under opcode 0x00, is in neither
table; its line is the token, no error is set, and the pass goes on. -/
def Obligations.UnrecognizedWordsListTheToken : Prop :=
  ∀ (s : State) (w : Word),
    (decode s.pc w = .unrecognized ↔
      (w.extractLsb' 26 6 = 0 ∧
        w.extractLsb' 0 6 ∉ [0x00#6, 0x03#6, 0x08#6, 0x10#6, 0x12#6, 0x18#6, 0x1a#6, 0x21#6, 0x22#6, 0x23#6, 0x2a#6]) ∨
      (w.extractLsb' 26 6 ≠ 0 ∧
        w.extractLsb' 26 6 ∉ [0x02#6, 0x03#6, 0x04#6, 0x05#6, 0x09#6, 0x0c#6, 0x0f#6, 0x1a#6, 0x23#6, 0x2b#6])) ∧
    (decode s.pc w = .unrecognized → Presents s w → step s = .next (printed s unrecognizedToken))

/-! ### The pass over the words -/

/-- A step runs the decoded instruction: when the word the pass presents decodes to `i`, the step is `exec i`. -/
def Obligations.StepRunsTheDecodedInstruction : Prop :=
  ∀ (s : State) (w : Word) (i : Instr), Presents s w → decodeWord w = .ok i → step s = exec i s

/-- The machine's path (decode to an instruction, then its meaning) lists exactly the value R102's `decode(pc, word)` returns at the
word's own pc, for every word. -/
def Obligations.EveryPresentedWordListsItsDecodedValue : Prop :=
  ∀ (s : State) (w : Word), Presents s w →
    step s = .next { s with listing := s.listing ++ (format s.pc (decode s.pc w) ++ ['\n']), cursor := s.cursor + 1 }

/-- The frame of every instruction: no reader register, no word of `buf` (written or not, for a buffer of any capacity), no pending
input changes; the pass moves on by one word and the listing only grows. -/
def Obligations.InstructionsChangeOnlyTheListing : Prop :=
  ∀ (i : Instr) (s t : State), exec i s = .next t →
    t.phase = s.phase ∧ t.nbytes = s.nbytes ∧ t.acc = s.acc ∧ t.count = s.count ∧ t.start = s.start ∧
    t.index = s.index ∧ t.err = s.err ∧ t.info = s.info ∧ t.input = s.input ∧
    (∀ cap k, t.bufWord cap k = s.bufWord cap k) ∧ t.resets = s.resets ∧ t.cursor = s.cursor + 1 ∧
    ∃ line, t.listing = s.listing ++ line

/-- R197: no instruction raises an exception; each one completes, and no error is set. -/
def Obligations.NoInstructionRaisesAnException : Prop :=
  ∀ (i : Instr) (s : State), ∃ t, exec i s = .next t ∧ t.err = s.err ∧ t.phase = s.phase ∧ t.info = s.info

/-- R24 to R26: the pc of word i is start + 4i mod 2^32; after any word, a jump or branch included, the next pc is 4 more, and its
low two bits stay those of `start`. -/
def Obligations.ThePcAdvancesByFourWhateverIsDecoded : Prop :=
  (∀ s : State, s.pc.toNat = (s.start.toNat + 4 * s.cursor) % 2 ^ 32) ∧
  ∀ (s t : State) (w : Word), Presents s w → step s = .next t →
    t.pc = s.pc + 4#32 ∧ t.pc.toNat % 4 = s.start.toNat % 4

/-- R218: the line of a word is a function of its pc and the word alone, whatever else the two states hold. -/
def Obligations.LinesDependOnPcAndWordAlone : Prop :=
  ∀ (s t : State) (w : Word), Presents s w → Presents t w → s.pc = t.pc →
    ∃ line, step s = .next { s with listing := s.listing ++ line, cursor := s.cursor + 1 } ∧
      step t = .next { t with listing := t.listing ++ line, cursor := t.cursor + 1 }

/-- The model's loading from outside (log entry 9): after `withFetchWord` the very next step runs the word. -/
def Obligations.AFetchWordRunsNext : Prop :=
  ∀ (s : State) (nbits w : Nat) (i : Instr), decodeTableWord nbits w = some i →
    step (s.withFetchWord nbits w) = exec i (s.withFetchWord nbits w)

/-! ### The container reader -/

/-- R41, R46: from the start of the count field four bytes, the first the most significant, are latched into `count` and the reader
goes on to the start address; nothing else of the state changes. -/
def Obligations.FourBytesMakeTheCount : Prop :=
  ∀ (cap : Word) (s : State) (b0 b1 b2 b3 : Byte), s.phase = .count → s.nbytes = 0 →
    ∃ v : Word, v.toNat = b0.toNat * 2 ^ 24 + b1.toNat * 2 ^ 16 + b2.toNat * 2 ^ 8 + b3.toNat ∧
      feed cap [.byte b0, .byte b1, .byte b2, .byte b3] s =
        .next { s with acc := 0, nbytes := 0, count := v, phase := .start }

/-- The end of the header (R47 and R194, decisions D5 and D18): the completed start address is latched; a count above the capacity
raises `CapacityExceeded` and records the phase `START`, `index`, `nbytes` (0: the field is complete) and the count, a zero count ends
reading, any other begins the words. -/
def Obligations.FourBytesMakeTheStartAndEndTheHeader : Prop :=
  ∀ (cap : Word) (s : State) (b0 b1 b2 b3 : Byte), s.phase = .start → s.nbytes = 0 →
    ∃ v : Word, v.toNat = b0.toNat * 2 ^ 24 + b1.toNat * 2 ^ 16 + b2.toNat * 2 ^ 8 + b3.toNat ∧
      feed cap [.byte b0, .byte b1, .byte b2, .byte b3] s = .next
        (if cap.toNat < s.count.toNat then
          { s with acc := 0, nbytes := 0, start := v, err := some .capacityExceeded, phase := .error,
                   info := some { phase := .start, index := s.index, nbytes := 0, declared := some s.count } }
        else if s.count = 0 then { s with acc := 0, nbytes := 0, start := v, phase := .done }
        else { s with acc := 0, nbytes := 0, start := v, phase := .words })

/-- R48: four bytes in the `WORDS` phase are the next word of `buf`; every other entry reads as before, and reading ends exactly
when the declared count is reached. -/
def Obligations.FourBytesStoreTheNextWord : Prop :=
  ∀ (cap : Word) (s : State) (b0 b1 b2 b3 : Byte), s.phase = .words → s.nbytes = 0 → s.index.toNat < cap.toNat →
    ∃ (v : Word) (t : State), v.toNat = b0.toNat * 2 ^ 24 + b1.toNat * 2 ^ 16 + b2.toNat * 2 ^ 8 + b3.toNat ∧
      feed cap [.byte b0, .byte b1, .byte b2, .byte b3] s = .next t ∧
      (∀ cap' k, t.bufWord cap' k = if k = s.index.toNat then some v else s.bufWord cap' k) ∧ t.resets = s.resets ∧
      t.index = s.index + 1 ∧ t.phase = (if s.index + 1 = s.count then .done else .words) ∧
      t.count = s.count ∧ t.start = s.start ∧ t.err = s.err ∧ t.info = s.info ∧ t.input = s.input ∧
      t.acc = 0 ∧ t.nbytes = 0 ∧ t.cursor = s.cursor ∧ t.listing = s.listing

/-- R49 and R50: while the reader reads, in any phase and with any number of bytes gathered, `End` raises `TruncatedInput` and
`Fail` raises `IoError`. -/
def Obligations.SourceEndAndFailureRaiseTheirErrors : Prop :=
  ∀ (s : State) (rest : List InputEvent), s.phase.reading = true →
    (s.input = .sourceEnd :: rest → ∃ t, step s = .next t ∧ t.phase = .error ∧ t.err = some .truncatedInput) ∧
    (s.input = .fail :: rest → ∃ t, step s = .next t ∧ t.phase = .error ∧ t.err = some .ioError)

/-- What raising `TruncatedInput` and `IoError` leaves (R191 to R193, R199: decisions D18 and D19): the phase, index and nbytes of
the failure are recorded, and every other reader register stands as it was. -/
def Obligations.RaisedErrorsFreezeTheStateAndRecordTheSite : Prop :=
  ∀ (s : State) (rest : List InputEvent), s.phase.reading = true →
    (s.input = .sourceEnd :: rest → step s = .next { s with
      input := rest, err := some .truncatedInput, phase := .error,
      info := some { phase := s.phase, index := s.index, nbytes := s.nbytes, declared := none } }) ∧
    (s.input = .fail :: rest → step s = .next { s with
      input := rest, err := some .ioError, phase := .error,
      info := some { phase := s.phase, index := s.index, nbytes := s.nbytes, declared := none } })

/-- R30 (with R51's decision D6 for the input): once reading has ended, no step changes the container, the reader's phase or error,
or takes an event. -/
def Obligations.TheContainerIsImmutableOnceRead : Prop :=
  ∀ s t : State, s.phase = .done ∨ s.phase = .error → step s = .next t →
    t.count = s.count ∧ t.start = s.start ∧ (∀ cap k, t.bufWord cap k = s.bufWord cap k) ∧ t.index = s.index ∧
    t.phase = s.phase ∧ t.err = s.err ∧ t.info = s.info ∧ t.acc = s.acc ∧ t.nbytes = s.nbytes ∧ t.input = s.input

/-- R200 (decision D19): an error is permanent; no number of steps leaves it or changes anything. -/
def Obligations.ErrorsArePermanent : Prop :=
  ∀ (n : Nat) (s : State), s.phase = .error → Host.Core.run Sys2Proof.core n s = .next s

/-- R53 and R201: a step lists a line only in phase `DONE`, and a reader error means an empty listing, even for words already
stored. -/
def Obligations.NoLineWithoutACompleteContainer : Prop :=
  (∀ s t : State, step s = .next t → t.listing ≠ s.listing → s.phase = .done) ∧
  ∀ s : State, s.Inv → s.phase = .error → s.listing = []

/-- R195 (decision D18): the error codes. -/
def Obligations.ErrorCodesAreZeroToThree : Prop :=
  errCode none = 0 ∧ errCode (some .truncatedInput) = 1 ∧ errCode (some .ioError) = 2 ∧
  errCode (some .capacityExceeded) = 3 ∧ ∀ e e', errCode e = errCode e' → e = e'

/-- The model's idle steps (log entries 5 and 6): a reader with no event pending waits, and a pass that has listed every word stays
as it is. -/
def Obligations.IdleStepsChangeNothing : Prop :=
  ∀ s : State,
    (s.phase.reading = true → s.input = [] → step s = .next s) ∧
    (s.phase = .done → s.count.toNat ≤ s.cursor → step s = .next s)

/-- When a step stops: only on an index that `buf` does not have, where the reader has completed a word for it or the pass would read
it; and no step is refused (the fault is the model's choice, log entry 10). -/
def Obligations.StepsStopOnlyOnBrokenStates : Prop :=
  ∀ s : State,
    (step s = .fault .outsideBuffer ↔
      (s.phase = .words ∧ s.nbytes = 3 ∧ (∃ b rest, s.input = .byte b :: rest) ∧
        Config.capWords.toNat ≤ s.index.toNat) ∨
      (s.phase = .done ∧ s.cursor < s.count.toNat ∧ s.buf.read s.cursor = none ∧
        Config.capWords.toNat ≤ s.cursor)) ∧
    (∀ f, step s = .fault f → f = .outsideBuffer) ∧
    ∀ r, step s ≠ .refused r

/-! ### Reset -/

/-- Reset. The reader registers but `buf` have the values of decision D17 (R32, R210) from any state. The rest is the model's choice:
no entry of `buf` counts as written, and each entry of the array holds a free word of the new reset (log entries 10 and 17; R32 leaves
them any value); the error record, the cursor and the listing are cleared (log entries 4 and 3); the pending source is kept (log
entry 12). -/
def Obligations.ResetSetsEveryReaderRegister : Prop :=
  ∀ s : State, s.applyReset.phase = .count ∧ s.applyReset.nbytes = 0 ∧ s.applyReset.acc = 0 ∧ s.applyReset.count = 0 ∧
    s.applyReset.start = 0 ∧ s.applyReset.index = 0 ∧ s.applyReset.err = none ∧
    (∀ k, s.applyReset.buf.read k = none) ∧
    (∀ cap k, s.applyReset.bufWord cap k =
      if k < cap.toNat then some (Config.unwrittenWord (s.resets + 1) k) else none) ∧
    s.applyReset.info = none ∧ s.applyReset.cursor = 0 ∧ s.applyReset.listing = [] ∧ s.applyReset.input = s.input ∧
    State.reset.applyReset = { State.reset with resets := State.reset.resets + 1 }

/-- The invariant holds after reset, with nothing pending and with any source that ends as R43 says. -/
def Obligations.TheInvariantHoldsAtReset : Prop :=
  State.reset.Inv ∧ ∀ s : State, sourceWf s.input = true → s.applyReset.Inv

/-! ### Headlines -/

/-- Every step keeps the invariant: R28's relations, the defined entries of `buf`, the accumulated bytes, the listing's content and
the source's form. -/
def Obligations.EveryStepKeepsTheInvariant : Prop :=
  ∀ s t : State, s.Inv → step s = .next t → t.Inv

/-- Under the invariant no step faults or is refused. -/
def Obligations.NoStepStopsUnderTheInvariant : Prop :=
  ∀ s : State, s.Inv → ∃ t, step s = .next t

/-- A finished pass has listed the whole container: R29's record, whose sequence is as long as the declared count, and R175's
listing of it. -/
def Obligations.AFinishedPassHasListedTheContainer : Prop :=
  ∀ s : State, s.Inv → s.phase = .done → s.cursor = s.count.toNat →
    ∃ c, s.container = some c ∧ c.count = s.count ∧ c.start = s.start ∧ c.words.length = c.count.toNat ∧
      (∀ k, c.words[k]? = s.buf.read k) ∧
      (∀ cap k, k < c.count.toNat → c.words[k]? = s.bufWord cap k) ∧ s.listing = listingOf c

/-- The reader's step rules and R52's functional form (an equivalence the spec derives) agree from reset, for every capacity, every byte sequence and either terminal event. -/
def Obligations.TheReaderAgreesWithItsFunctionalForm : Prop :=
  ∀ (cap : Word) (bytes : List Byte) (t : Terminal), ∃ s,
    feed cap (eventsOf bytes t) State.reset = .next s ∧ s.result = some (readContainer cap bytes t)

/-- R54 (decision D6): bytes past offset 8 + 4N, and the terminal event after them, do not affect what is read. -/
def Obligations.TrailingBytesAreNotRead : Prop :=
  ∀ (cap : Word) (bytes extra : List Byte) (t t' : Terminal) (c : Container),
    readContainer cap bytes t = .ok c → readContainer cap (bytes ++ extra) t' = .ok c

/-- A whole pass over any source: from its start the machine comes to an end, stays there, and shows the error R52 names with an
empty listing (decision D21), or no error and R175's listing of the container. That the pass is listed one word a step and that the
machine then stays as it is are the model's choices (log entries 3 and 6). -/
def Obligations.AWholePassShowsItsResult : Prop :=
  ∀ (bytes : List Byte) (t : Terminal), ∃ (n : Nat) (s : State),
    (∀ k, Host.Core.run Sys2Proof.core (n + k) (State.boot (eventsOf bytes t)) = .next s) ∧
    s.ended = true ∧ s.observation = passResult Config.capWords bytes t

/-! ### The word store -/

/-- Looking up what was written at an entry after a write gives the word written there, and elsewhere what was read before. -/
def Obligations.TheStoreReadsBackWhatWasWritten : Prop :=
  ∀ (m : WordStore) (k j : Nat) (v : Word),
    (m.write k v).read j = if j = k then some v else m.read j

/-- Word stores in canonical form that read alike are equal data (the model's form, log entry 2). -/
def Obligations.StoresThatReadAlikeAreEqual : Prop :=
  ∀ m m' : WordStore, m.wf → m'.wf → (∀ k, m.read k = m'.read k) → m = m'

/-- The buffer is an array of words (R28): each entry below the capacity holds one, in every state, and one that nothing has written
holds any value (R32). The rest is the model's choice, no rule of the spec: that this value is the free word of the last reset (log
entries 10 and 17), and that a pass which comes to such an entry lists that word's decoded value and goes on (log entry 10). R32 says
that such an entry is never read, and `State.Inv` holds in no state whose pass is at one. -/
def Obligations.EveryEntryHoldsAWordAndThePassGoesOn : Prop :=
  (∀ (cap : Word) (s : State) (k : Nat), k < cap.toNat →
    s.bufWord cap k = some ((s.buf.read k).getD (Config.unwrittenWord s.resets k))) ∧
  (∀ (cap : Word) (s : State), s.cursor < s.count.toNat → s.cursor < cap.toNat → s.buf.read s.cursor = none →
    listStep cap s = .next { s with
      listing := s.listing ++ (format s.pc (decode s.pc (Config.unwrittenWord s.resets s.cursor)) ++ ['\n']),
      cursor := s.cursor + 1 }) ∧
  ∀ s : State, s.phase = .done → step s = listStep Config.capWords s
end

