-- ==== Sys2Proof/Laws/Encoding.lean ====
section
/-! SUPPORT. The fields of an encoded word. -/

namespace Sys2Proof

/-- The fields of an R-type word (R71). -/
theorem extract_rWord (rs rt rd shamt : Spec5) (funct : BitVec 6) :
    (extract (rWord rs rt rd shamt funct)).opcode = 0 ∧ (extract (rWord rs rt rd shamt funct)).rs = rs ∧
    (extract (rWord rs rt rd shamt funct)).rt = rt ∧ (extract (rWord rs rt rd shamt funct)).rd = rd ∧
    (extract (rWord rs rt rd shamt funct)).shamt = shamt ∧ (extract (rWord rs rt rd shamt funct)).funct = funct := by
  refine ⟨?_, ?_, ?_, ?_, ?_, ?_⟩ <;>
  · apply BitVec.eq_of_getLsbD_eq
    intro i hi
    simp only [extract, rWord, BitVec.getLsbD_extractLsb', BitVec.getLsbD_append, BitVec.getLsbD_zero]
    interval_cases i <;> simp

/-- The fields of an I-type word (R72). -/
theorem extract_iWord (opcode : BitVec 6) (rs rt : Spec5) (simm : Int) :
    (extract (iWord opcode rs rt simm)).opcode = opcode ∧ (extract (iWord opcode rs rt simm)).rs = rs ∧
    (extract (iWord opcode rs rt simm)).rt = rt ∧ (extract (iWord opcode rs rt simm)).imm = BitVec.ofInt 16 simm := by
  refine ⟨?_, ?_, ?_, ?_⟩ <;>
  · apply BitVec.eq_of_getLsbD_eq
    intro i hi
    simp only [extract, iWord, BitVec.getLsbD_extractLsb', BitVec.getLsbD_append]
    interval_cases i <;> simp

/-- The fields of a J-type word (R73). -/
theorem extract_jWord (opcode : BitVec 6) (addr : BitVec 26) :
    (extract (jWord opcode addr)).opcode = opcode ∧ (extract (jWord opcode addr)).addr = addr := by
  refine ⟨?_, ?_⟩ <;>
  · apply BitVec.eq_of_getLsbD_eq
    intro i hi
    simp only [extract, jWord, BitVec.getLsbD_extractLsb', BitVec.getLsbD_append]
    interval_cases i <;> simp

/-- The value of four bytes in stream order (R41). -/
theorem toNat_beWord (b0 b1 b2 b3 : Byte) :
    (beWord b0 b1 b2 b3).toNat = b0.toNat * 2 ^ 24 + b1.toNat * 2 ^ 16 + b2.toNat * 2 ^ 8 + b3.toNat := by
  have h1 := b1.isLt
  have h2 := b2.isLt
  have h3 := b3.isLt
  rw [beWord, BitVec.toNat_append, BitVec.toNat_append, BitVec.toNat_append, ← Nat.shiftLeft_add_eq_or_of_lt h3,
    ← Nat.shiftLeft_add_eq_or_of_lt h2, ← Nat.shiftLeft_add_eq_or_of_lt h1]
  simp only [Nat.shiftLeft_eq]
  omega

/-- A word's bytes in stream order assemble to the word (R41). -/
theorem beWord_of_bytes (w : Word) :
    beWord (w.extractLsb' 24 8) (w.extractLsb' 16 8) (w.extractLsb' 8 8) (w.extractLsb' 0 8) = w := by
  have := w.isLt
  apply BitVec.eq_of_toNat_eq
  simp only [toNat_beWord, BitVec.extractLsb'_toNat, Nat.shiftRight_eq_div_pow]
  omega

/-- Sign extension undoes taking the low 16 bits of an immediate in range (R76). -/
theorem sext32_ofInt {simm : Int} (h : simmOk simm = true) : sext32 (BitVec.ofInt 16 simm) = simm := by
  simp only [simmOk, decide_eq_true_eq] at h
  simp only [sext32, BitVec.toNat_ofInt]
  split <;> omega

/-- An immediate that came from 16 bits is in range (R76). -/
theorem simmOk_sext32 (v : BitVec 16) : simmOk (sext32 v) = true := by
  have := v.isLt
  rw [simmOk, decide_eq_true_eq, sext32]
  split <;> omega

/-- The low 16 bits of a sign-extended value are the value (R76). -/
theorem ofInt_sext32 (v : BitVec 16) : BitVec.ofInt 16 (sext32 v) = v := by
  have := v.isLt
  apply BitVec.eq_of_toNat_eq
  simp only [sext32, BitVec.toNat_ofInt]
  split <;> omega

end Sys2Proof
end

