-- ==== Sys2Proof/Laws/State.lean ====
section
/-! SUPPORT. What each named update of the state does to each field. -/

namespace Sys2Proof.Machine

@[simp] theorem State.raise_phase (e : ReaderError) (i : ErrorInfo) (s : State) : (s.raise e i).phase = .error := rfl
@[simp] theorem State.raise_nbytes (e : ReaderError) (i : ErrorInfo) (s : State) : (s.raise e i).nbytes = s.nbytes := rfl
@[simp] theorem State.raise_acc (e : ReaderError) (i : ErrorInfo) (s : State) : (s.raise e i).acc = s.acc := rfl
@[simp] theorem State.raise_count (e : ReaderError) (i : ErrorInfo) (s : State) : (s.raise e i).count = s.count := rfl
@[simp] theorem State.raise_start (e : ReaderError) (i : ErrorInfo) (s : State) : (s.raise e i).start = s.start := rfl
@[simp] theorem State.raise_index (e : ReaderError) (i : ErrorInfo) (s : State) : (s.raise e i).index = s.index := rfl
@[simp] theorem State.raise_buf (e : ReaderError) (i : ErrorInfo) (s : State) : (s.raise e i).buf = s.buf := rfl
@[simp] theorem State.raise_err (e : ReaderError) (i : ErrorInfo) (s : State) : (s.raise e i).err = some e := rfl
@[simp] theorem State.raise_info (e : ReaderError) (i : ErrorInfo) (s : State) : (s.raise e i).info = some i := rfl
@[simp] theorem State.raise_input (e : ReaderError) (i : ErrorInfo) (s : State) : (s.raise e i).input = s.input := rfl
@[simp] theorem State.raise_cursor (e : ReaderError) (i : ErrorInfo) (s : State) : (s.raise e i).cursor = s.cursor := rfl
@[simp] theorem State.raise_listing (e : ReaderError) (i : ErrorInfo) (s : State) : (s.raise e i).listing = s.listing := rfl
@[simp] theorem State.raise_resets (e : ReaderError) (i : ErrorInfo) (s : State) : (s.raise e i).resets = s.resets := rfl

@[simp] theorem State.applyReset_phase (s : State) : (s.applyReset).phase = .count := rfl
@[simp] theorem State.applyReset_nbytes (s : State) : (s.applyReset).nbytes = 0 := rfl
@[simp] theorem State.applyReset_acc (s : State) : (s.applyReset).acc = 0 := rfl
@[simp] theorem State.applyReset_count (s : State) : (s.applyReset).count = 0 := rfl
@[simp] theorem State.applyReset_start (s : State) : (s.applyReset).start = 0 := rfl
@[simp] theorem State.applyReset_index (s : State) : (s.applyReset).index = 0 := rfl
@[simp] theorem State.applyReset_buf (s : State) : (s.applyReset).buf = [] := rfl
@[simp] theorem State.applyReset_err (s : State) : (s.applyReset).err = none := rfl
@[simp] theorem State.applyReset_info (s : State) : (s.applyReset).info = none := rfl
@[simp] theorem State.applyReset_input (s : State) : (s.applyReset).input = s.input := rfl
@[simp] theorem State.applyReset_cursor (s : State) : (s.applyReset).cursor = 0 := rfl
@[simp] theorem State.applyReset_listing (s : State) : (s.applyReset).listing = [] := rfl
@[simp] theorem State.applyReset_resets (s : State) : (s.applyReset).resets = s.resets + 1 := rfl

@[simp] theorem State.gather_phase (a : Word) (s : State) : (s.gather a).phase = s.phase := rfl
@[simp] theorem State.gather_nbytes (a : Word) (s : State) : (s.gather a).nbytes = s.nbytes + 1 := rfl
@[simp] theorem State.gather_acc (a : Word) (s : State) : (s.gather a).acc = a := rfl
@[simp] theorem State.gather_count (a : Word) (s : State) : (s.gather a).count = s.count := rfl
@[simp] theorem State.gather_start (a : Word) (s : State) : (s.gather a).start = s.start := rfl
@[simp] theorem State.gather_index (a : Word) (s : State) : (s.gather a).index = s.index := rfl
@[simp] theorem State.gather_buf (a : Word) (s : State) : (s.gather a).buf = s.buf := rfl
@[simp] theorem State.gather_err (a : Word) (s : State) : (s.gather a).err = s.err := rfl
@[simp] theorem State.gather_info (a : Word) (s : State) : (s.gather a).info = s.info := rfl
@[simp] theorem State.gather_input (a : Word) (s : State) : (s.gather a).input = s.input := rfl
@[simp] theorem State.gather_cursor (a : Word) (s : State) : (s.gather a).cursor = s.cursor := rfl
@[simp] theorem State.gather_listing (a : Word) (s : State) : (s.gather a).listing = s.listing := rfl
@[simp] theorem State.gather_resets (a : Word) (s : State) : (s.gather a).resets = s.resets := rfl

@[simp] theorem State.takeField_phase (s : State) : (s.takeField).phase = s.phase := rfl
@[simp] theorem State.takeField_nbytes (s : State) : (s.takeField).nbytes = 0 := rfl
@[simp] theorem State.takeField_acc (s : State) : (s.takeField).acc = 0 := rfl
@[simp] theorem State.takeField_count (s : State) : (s.takeField).count = s.count := rfl
@[simp] theorem State.takeField_start (s : State) : (s.takeField).start = s.start := rfl
@[simp] theorem State.takeField_index (s : State) : (s.takeField).index = s.index := rfl
@[simp] theorem State.takeField_buf (s : State) : (s.takeField).buf = s.buf := rfl
@[simp] theorem State.takeField_err (s : State) : (s.takeField).err = s.err := rfl
@[simp] theorem State.takeField_info (s : State) : (s.takeField).info = s.info := rfl
@[simp] theorem State.takeField_input (s : State) : (s.takeField).input = s.input := rfl
@[simp] theorem State.takeField_cursor (s : State) : (s.takeField).cursor = s.cursor := rfl
@[simp] theorem State.takeField_listing (s : State) : (s.takeField).listing = s.listing := rfl
@[simp] theorem State.takeField_resets (s : State) : (s.takeField).resets = s.resets := rfl

@[simp] theorem State.latchCount_phase (v : Word) (s : State) : (s.latchCount v).phase = .start := rfl
@[simp] theorem State.latchCount_nbytes (v : Word) (s : State) : (s.latchCount v).nbytes = s.nbytes := rfl
@[simp] theorem State.latchCount_acc (v : Word) (s : State) : (s.latchCount v).acc = s.acc := rfl
@[simp] theorem State.latchCount_count (v : Word) (s : State) : (s.latchCount v).count = v := rfl
@[simp] theorem State.latchCount_start (v : Word) (s : State) : (s.latchCount v).start = s.start := rfl
@[simp] theorem State.latchCount_index (v : Word) (s : State) : (s.latchCount v).index = s.index := rfl
@[simp] theorem State.latchCount_buf (v : Word) (s : State) : (s.latchCount v).buf = s.buf := rfl
@[simp] theorem State.latchCount_err (v : Word) (s : State) : (s.latchCount v).err = s.err := rfl
@[simp] theorem State.latchCount_info (v : Word) (s : State) : (s.latchCount v).info = s.info := rfl
@[simp] theorem State.latchCount_input (v : Word) (s : State) : (s.latchCount v).input = s.input := rfl
@[simp] theorem State.latchCount_cursor (v : Word) (s : State) : (s.latchCount v).cursor = s.cursor := rfl
@[simp] theorem State.latchCount_listing (v : Word) (s : State) : (s.latchCount v).listing = s.listing := rfl
@[simp] theorem State.latchCount_resets (v : Word) (s : State) : (s.latchCount v).resets = s.resets := rfl

@[simp] theorem State.latchStart_phase (v : Word) (s : State) : (s.latchStart v).phase = s.phase := rfl
@[simp] theorem State.latchStart_nbytes (v : Word) (s : State) : (s.latchStart v).nbytes = s.nbytes := rfl
@[simp] theorem State.latchStart_acc (v : Word) (s : State) : (s.latchStart v).acc = s.acc := rfl
@[simp] theorem State.latchStart_count (v : Word) (s : State) : (s.latchStart v).count = s.count := rfl
@[simp] theorem State.latchStart_start (v : Word) (s : State) : (s.latchStart v).start = v := rfl
@[simp] theorem State.latchStart_index (v : Word) (s : State) : (s.latchStart v).index = s.index := rfl
@[simp] theorem State.latchStart_buf (v : Word) (s : State) : (s.latchStart v).buf = s.buf := rfl
@[simp] theorem State.latchStart_err (v : Word) (s : State) : (s.latchStart v).err = s.err := rfl
@[simp] theorem State.latchStart_info (v : Word) (s : State) : (s.latchStart v).info = s.info := rfl
@[simp] theorem State.latchStart_input (v : Word) (s : State) : (s.latchStart v).input = s.input := rfl
@[simp] theorem State.latchStart_cursor (v : Word) (s : State) : (s.latchStart v).cursor = s.cursor := rfl
@[simp] theorem State.latchStart_listing (v : Word) (s : State) : (s.latchStart v).listing = s.listing := rfl
@[simp] theorem State.latchStart_resets (v : Word) (s : State) : (s.latchStart v).resets = s.resets := rfl

@[simp] theorem State.enter_phase (p : Phase) (s : State) : (s.enter p).phase = p := rfl
@[simp] theorem State.enter_nbytes (p : Phase) (s : State) : (s.enter p).nbytes = s.nbytes := rfl
@[simp] theorem State.enter_acc (p : Phase) (s : State) : (s.enter p).acc = s.acc := rfl
@[simp] theorem State.enter_count (p : Phase) (s : State) : (s.enter p).count = s.count := rfl
@[simp] theorem State.enter_start (p : Phase) (s : State) : (s.enter p).start = s.start := rfl
@[simp] theorem State.enter_index (p : Phase) (s : State) : (s.enter p).index = s.index := rfl
@[simp] theorem State.enter_buf (p : Phase) (s : State) : (s.enter p).buf = s.buf := rfl
@[simp] theorem State.enter_err (p : Phase) (s : State) : (s.enter p).err = s.err := rfl
@[simp] theorem State.enter_info (p : Phase) (s : State) : (s.enter p).info = s.info := rfl
@[simp] theorem State.enter_input (p : Phase) (s : State) : (s.enter p).input = s.input := rfl
@[simp] theorem State.enter_cursor (p : Phase) (s : State) : (s.enter p).cursor = s.cursor := rfl
@[simp] theorem State.enter_listing (p : Phase) (s : State) : (s.enter p).listing = s.listing := rfl
@[simp] theorem State.enter_resets (p : Phase) (s : State) : (s.enter p).resets = s.resets := rfl

@[simp] theorem State.putWord_phase (v : Word) (s : State) : (s.putWord v).phase = s.phase := rfl
@[simp] theorem State.putWord_nbytes (v : Word) (s : State) : (s.putWord v).nbytes = s.nbytes := rfl
@[simp] theorem State.putWord_acc (v : Word) (s : State) : (s.putWord v).acc = s.acc := rfl
@[simp] theorem State.putWord_count (v : Word) (s : State) : (s.putWord v).count = s.count := rfl
@[simp] theorem State.putWord_start (v : Word) (s : State) : (s.putWord v).start = s.start := rfl
@[simp] theorem State.putWord_index (v : Word) (s : State) : (s.putWord v).index = s.index + 1 := rfl
@[simp] theorem State.putWord_buf (v : Word) (s : State) : (s.putWord v).buf = s.buf.write s.index.toNat v := rfl
@[simp] theorem State.putWord_err (v : Word) (s : State) : (s.putWord v).err = s.err := rfl
@[simp] theorem State.putWord_info (v : Word) (s : State) : (s.putWord v).info = s.info := rfl
@[simp] theorem State.putWord_input (v : Word) (s : State) : (s.putWord v).input = s.input := rfl
@[simp] theorem State.putWord_cursor (v : Word) (s : State) : (s.putWord v).cursor = s.cursor := rfl
@[simp] theorem State.putWord_listing (v : Word) (s : State) : (s.putWord v).listing = s.listing := rfl
@[simp] theorem State.putWord_resets (v : Word) (s : State) : (s.putWord v).resets = s.resets := rfl

@[simp] theorem State.list_phase (d : Decoded) (s : State) : (s.list d).phase = s.phase := rfl
@[simp] theorem State.list_nbytes (d : Decoded) (s : State) : (s.list d).nbytes = s.nbytes := rfl
@[simp] theorem State.list_acc (d : Decoded) (s : State) : (s.list d).acc = s.acc := rfl
@[simp] theorem State.list_count (d : Decoded) (s : State) : (s.list d).count = s.count := rfl
@[simp] theorem State.list_start (d : Decoded) (s : State) : (s.list d).start = s.start := rfl
@[simp] theorem State.list_index (d : Decoded) (s : State) : (s.list d).index = s.index := rfl
@[simp] theorem State.list_buf (d : Decoded) (s : State) : (s.list d).buf = s.buf := rfl
@[simp] theorem State.list_err (d : Decoded) (s : State) : (s.list d).err = s.err := rfl
@[simp] theorem State.list_info (d : Decoded) (s : State) : (s.list d).info = s.info := rfl
@[simp] theorem State.list_input (d : Decoded) (s : State) : (s.list d).input = s.input := rfl
@[simp] theorem State.list_cursor (d : Decoded) (s : State) : (s.list d).cursor = s.cursor + 1 := rfl
@[simp] theorem State.list_listing (d : Decoded) (s : State) : (s.list d).listing = s.listing ++ lineOf s.pc d := rfl
@[simp] theorem State.list_resets (d : Decoded) (s : State) : (s.list d).resets = s.resets := rfl

@[simp] theorem State.withFetchWord_phase (s : State) (n w : Nat) : (s.withFetchWord n w).phase = .done := rfl
@[simp] theorem State.withFetchWord_nbytes (s : State) (n w : Nat) : (s.withFetchWord n w).nbytes = s.nbytes := rfl
@[simp] theorem State.withFetchWord_acc (s : State) (n w : Nat) : (s.withFetchWord n w).acc = s.acc := rfl
@[simp] theorem State.withFetchWord_count (s : State) (n w : Nat) : (s.withFetchWord n w).count = 1 := rfl
@[simp] theorem State.withFetchWord_start (s : State) (n w : Nat) : (s.withFetchWord n w).start = s.start := rfl
@[simp] theorem State.withFetchWord_index (s : State) (n w : Nat) : (s.withFetchWord n w).index = 1 := rfl
@[simp] theorem State.withFetchWord_buf (s : State) (n w : Nat) : (s.withFetchWord n w).buf = [(0, BitVec.ofNat 32 w)] := rfl
@[simp] theorem State.withFetchWord_err (s : State) (n w : Nat) : (s.withFetchWord n w).err = none := rfl
@[simp] theorem State.withFetchWord_info (s : State) (n w : Nat) : (s.withFetchWord n w).info = none := rfl
@[simp] theorem State.withFetchWord_input (s : State) (n w : Nat) : (s.withFetchWord n w).input = s.input := rfl
@[simp] theorem State.withFetchWord_cursor (s : State) (n w : Nat) : (s.withFetchWord n w).cursor = 0 := rfl
@[simp] theorem State.withFetchWord_listing (s : State) (n w : Nat) : (s.withFetchWord n w).listing = s.listing := rfl
@[simp] theorem State.withFetchWord_resets (s : State) (n w : Nat) : (s.withFetchWord n w).resets = s.resets := rfl

@[simp] theorem State.boot_phase (es : List InputEvent) : (State.boot es).phase = .count := rfl
@[simp] theorem State.boot_nbytes (es : List InputEvent) : (State.boot es).nbytes = 0 := rfl
@[simp] theorem State.boot_acc (es : List InputEvent) : (State.boot es).acc = 0 := rfl
@[simp] theorem State.boot_count (es : List InputEvent) : (State.boot es).count = 0 := rfl
@[simp] theorem State.boot_start (es : List InputEvent) : (State.boot es).start = 0 := rfl
@[simp] theorem State.boot_index (es : List InputEvent) : (State.boot es).index = 0 := rfl
@[simp] theorem State.boot_buf (es : List InputEvent) : (State.boot es).buf = [] := rfl
@[simp] theorem State.boot_err (es : List InputEvent) : (State.boot es).err = none := rfl
@[simp] theorem State.boot_info (es : List InputEvent) : (State.boot es).info = none := rfl
@[simp] theorem State.boot_input (es : List InputEvent) : (State.boot es).input = es := rfl
@[simp] theorem State.boot_cursor (es : List InputEvent) : (State.boot es).cursor = 0 := rfl
@[simp] theorem State.boot_listing (es : List InputEvent) : (State.boot es).listing = [] := rfl
@[simp] theorem State.boot_resets (es : List InputEvent) : (State.boot es).resets = 0 := rfl

@[simp] theorem printed_phase (s : State) (t : Text) : (printed s t).phase = s.phase := rfl
@[simp] theorem printed_nbytes (s : State) (t : Text) : (printed s t).nbytes = s.nbytes := rfl
@[simp] theorem printed_acc (s : State) (t : Text) : (printed s t).acc = s.acc := rfl
@[simp] theorem printed_count (s : State) (t : Text) : (printed s t).count = s.count := rfl
@[simp] theorem printed_start (s : State) (t : Text) : (printed s t).start = s.start := rfl
@[simp] theorem printed_index (s : State) (t : Text) : (printed s t).index = s.index := rfl
@[simp] theorem printed_buf (s : State) (t : Text) : (printed s t).buf = s.buf := rfl
@[simp] theorem printed_err (s : State) (t : Text) : (printed s t).err = s.err := rfl
@[simp] theorem printed_info (s : State) (t : Text) : (printed s t).info = s.info := rfl
@[simp] theorem printed_input (s : State) (t : Text) : (printed s t).input = s.input := rfl
@[simp] theorem printed_cursor (s : State) (t : Text) : (printed s t).cursor = s.cursor + 1 := rfl
@[simp] theorem printed_listing (s : State) (t : Text) : (printed s t).listing = s.listing ++ (hex8 s.pc ++ ": ".toList ++ t ++ "\n".toList) := rfl
@[simp] theorem printed_resets (s : State) (t : Text) : (printed s t).resets = s.resets := rfl

/-- Listing a decoded value is listing the line of its body. -/
theorem State.list_eq_printed (d : Decoded) (s : State) : s.list d = printed s (body regName unrecognizedToken d) := by
  simp [State.list, printed, lineOf, format, formatWith]

end Sys2Proof.Machine
end

