-- ==== Sys2Proof/Laws/Store.lean ====
section
/-! SUPPORT. The word store keeps its canonical form under every operation (log entry 2). -/

namespace Sys2Proof.Machine

/-- The indices after a write are the written one and those before. -/
theorem WordStore.mem_keys_write (m : WordStore) (k j : Nat) (v : Word) :
    j ∈ (m.write k v).map Prod.fst ↔ j = k ∨ j ∈ m.map Prod.fst := by
  induction m with
  | nil => simp [WordStore.write]
  | cons p rest ih =>
    obtain ⟨k', v'⟩ := p
    unfold WordStore.write
    split
    · simp
    · split
      · rename_i h
        subst h
        simp
      · rw [List.map_cons, List.mem_cons, ih]
        simp
        tauto

/-- A write keeps the indices strictly rising. -/
theorem WordStore.write_wf (m : WordStore) (k : Nat) (v : Word) (h : m.wf) : (m.write k v).wf := by
  induction m with
  | nil => simp [WordStore.write, WordStore.wf]
  | cons p rest ih =>
    obtain ⟨k', v'⟩ := p
    simp only [WordStore.wf, List.map_cons, List.pairwise_cons] at h ih
    unfold WordStore.write
    split
    · rename_i hk
      simp only [WordStore.wf, List.map_cons, List.pairwise_cons, List.mem_cons, forall_eq_or_imp]
      exact ⟨⟨hk, fun j hj => lt_trans hk (h.1 j hj)⟩, h⟩
    · split
      · rename_i hk
        subst hk
        exact List.pairwise_cons.mpr h
      · refine List.pairwise_cons.mpr ⟨fun j hj => ?_, ih h.2⟩
        rcases (WordStore.mem_keys_write rest k j v).mp hj with rfl | hj
        · omega
        · exact h.1 j hj

/-- Writing past every index appends. -/
theorem WordStore.write_fresh (m : WordStore) (k : Nat) (v : Word) (h : ∀ j ∈ m.map Prod.fst, j < k) :
    m.write k v = m ++ [(k, v)] := by
  induction m with
  | nil => rfl
  | cons p rest ih =>
    obtain ⟨k', v'⟩ := p
    have hk : k' < k := h k' (by simp)
    have ih := ih fun j hj => h j (by simp [List.mem_map] at hj ⊢; tauto)
    simp [WordStore.write, ih, show ¬ k < k' by omega, show ¬ k = k' by omega]

/-- An entry that has been written reads as what was written, for every capacity. -/
theorem State.bufWord_of_written (cap : Word) {s : State} {k : Nat} {w : Word} (h : s.buf.read k = some w) :
    s.bufWord cap k = some w := by
  rw [State.bufWord, h]

/-- An entry of the array that has not been written holds a free word (R32). -/
theorem State.bufWord_of_unwritten {cap : Word} {s : State} {k : Nat} (h : s.buf.read k = none) (hk : k < cap.toNat) :
    s.bufWord cap k = some (Config.unwrittenWord s.resets k) := by
  rw [State.bufWord, h]
  exact if_pos hk

/-- Only an index that nothing was written at and that the array does not have holds no word. -/
theorem State.bufWord_eq_none_iff (cap : Word) (s : State) (k : Nat) :
    s.bufWord cap k = none ↔ s.buf.read k = none ∧ cap.toNat ≤ k := by
  unfold State.bufWord
  cases h : s.buf.read k <;> simp

/-- What `buf` holds depends on the writes and the resets alone. -/
theorem State.bufWord_congr {s t : State} (hb : t.buf = s.buf) (hr : t.resets = s.resets) (cap : Word) (k : Nat) :
    t.bufWord cap k = s.bufWord cap k := by
  simp only [State.bufWord, hb, hr]

/-- Reset's word store is in canonical form. -/
theorem reset_store_wf : State.reset.buf.wf := List.Pairwise.nil

/-- A reset from any state leaves it so. -/
theorem State.applyReset_store_wf (s : State) : s.applyReset.buf.wf := List.Pairwise.nil

/-- Storing the next word keeps it. -/
theorem State.putWord_store_wf (v : Word) (s : State) (h : s.buf.wf) : (s.putWord v).buf.wf :=
  WordStore.write_wf _ _ _ h

/-- Loading one word from outside leaves it so. -/
theorem State.withFetchWord_store_wf (s : State) (n w : Nat) : (s.withFetchWord n w).buf.wf := by
  simp [WordStore.wf]

end Sys2Proof.Machine
end

