-- ==== Sys2Proof/Laws/Ops.lean ====
section
/-! SUPPORT. Once per shared operation: everything it can do. Later proofs cite these instead of unfolding. -/

namespace Sys2Proof.Machine

/-- Listing a value always completes. -/
theorem emit_next (d : Decoded) (s : State) : emit d s = .next (s.list d) := rfl

/-- The end of the header: one of three next states (R47). -/
theorem endOfHeader_cases (cap : Word) (s : State) :
    (cap.toNat < s.count.toNat ∧ endOfHeader cap s = s.raise .capacityExceeded s.siteWithCount) ∨
    (s.count.toNat ≤ cap.toNat ∧ s.count = 0 ∧ endOfHeader cap s = s.enter .done) ∨
    (s.count.toNat ≤ cap.toNat ∧ s.count ≠ 0 ∧ endOfHeader cap s = s.enter .words) := by
  unfold endOfHeader
  split
  · exact .inl ⟨‹_›, rfl⟩
  · split
    · exact .inr (.inl ⟨by omega, ‹_›, rfl⟩)
    · exact .inr (.inr ⟨by omega, ‹_›, rfl⟩)

/-- Storing a word: the word goes in and reading ends or goes on (R48), or the buffer has no such index. -/
theorem storeWord_cases (cap v : Word) (s : State) :
    (s.index.toNat < cap.toNat ∧ s.index + 1 = s.count ∧ storeWord cap v s = .next ((s.putWord v).enter .done)) ∨
    (s.index.toNat < cap.toNat ∧ s.index + 1 ≠ s.count ∧ storeWord cap v s = .next (s.putWord v)) ∨
    (cap.toNat ≤ s.index.toNat ∧ storeWord cap v s = .fault .outsideBuffer) := by
  unfold storeWord
  split
  · by_cases hc : s.index + 1 = s.count
    · exact .inl ⟨‹_›, hc, congrArg _ (if_pos hc)⟩
    · exact .inr (.inl ⟨‹_›, hc, congrArg _ (if_neg hc)⟩)
  · exact .inr (.inr ⟨by omega, rfl⟩)

/-- An event that is no byte raises its error at the site it finds (R49, R50); a byte joins `acc`, or completes its field (R44). -/
theorem readEvent_cases (cap : Word) (e : InputEvent) (s : State) :
    (e = .fail ∧ readEvent cap e s = .next (s.raise .ioError s.site)) ∨
    (e = .sourceEnd ∧ readEvent cap e s = .next (s.raise .truncatedInput s.site)) ∨
    (∃ b, e = .byte b ∧ s.nbytes.val < 3 ∧ readEvent cap e s = .next (s.gather (shiftIn s.acc b))) ∨
    (∃ b, e = .byte b ∧ s.nbytes = 3 ∧
      readEvent cap e s = completeField cap (shiftIn s.acc b) s.takeField) := by
  cases e with
  | fail => exact .inl ⟨rfl, rfl⟩
  | sourceEnd => exact .inr (.inl ⟨rfl, rfl⟩)
  | byte b =>
    by_cases h : s.nbytes.val < 3
    · exact .inr (.inr (.inl ⟨b, rfl, h, by simp [readEvent, h]⟩))
    · exact .inr (.inr (.inr ⟨b, rfl, by omega, by simp [readEvent, h]⟩))

/-- The reader's step on an event does not look at the events behind it. -/
theorem readEvent_ignores_input {cap : Word} {e : InputEvent} {s t : State} (h : readEvent cap e s = .next t)
    (i : List InputEvent) : readEvent cap e { s with input := i } = .next { t with input := i } := by
  rcases readEvent_cases cap e s with ⟨rfl, h'⟩ | ⟨rfl, h'⟩ | ⟨b, rfl, hn, h'⟩ | ⟨b, rfl, hn, h'⟩ <;> rw [h'] at h
  · injection h with h
    subst h
    rfl
  · injection h with h
    subst h
    rfl
  · injection h with h
    subst h
    exact if_pos hn
  · have hf : readEvent cap (.byte b) { s with input := i } =
        completeField cap (shiftIn s.acc b) { s.takeField with input := i } := if_neg (by simp [hn])
    rw [hf]
    generalize s.takeField = q, shiftIn s.acc b = v at *
    obtain ⟨ph, nb, ac, co, st, ix, bu, er, inf, inp, cu, li, re⟩ := q
    cases ph <;> simp only [completeField] at h ⊢
    case count | done | error =>
      injection h with h
      subst h
      rfl
    case start =>
      injection h with h
      subst h
      rcases endOfHeader_cases cap (State.latchStart v ⟨.start, nb, ac, co, st, ix, bu, er, inf, inp, cu, li, re⟩) with ⟨h1, h2⟩ | ⟨h1, h1', h2⟩ | ⟨h1, h1', h2⟩ <;> rw [h2]
      · exact congrArg _ (if_pos h1)
      · exact congrArg _ ((if_neg (by simpa using h1)).trans (if_pos h1'))
      · exact congrArg _ ((if_neg (by simpa using h1)).trans (if_neg h1'))
    case words =>
      rcases storeWord_cases cap v ⟨.words, nb, ac, co, st, ix, bu, er, inf, inp, cu, li, re⟩ with ⟨h1, h2, h3⟩ | ⟨h1, h2, h3⟩ | ⟨h1, h3⟩ <;> rw [h3] at h
      · injection h with h
        subst h
        exact (if_pos h1).trans (congrArg _ (if_pos h2))
      · injection h with h
        subst h
        exact (if_pos h1).trans (congrArg _ (if_neg h2))
      · cases h

/-- A reader step waits, or takes the event at the head of the source. -/
theorem readStep_cases (s : State) :
    (s.input = [] ∧ readStep s = .next s) ∨
    (∃ e rest, s.input = e :: rest ∧ readStep s = readEvent Config.capWords e { s with input := rest }) := by
  unfold readStep
  cases h : s.input with
  | nil => exact .inl ⟨rfl, rfl⟩
  | cons e rest => exact .inr ⟨e, rest, rfl, rfl⟩

/-- Every instruction lists one decoded value and does nothing else. -/
theorem exec_emits (i : Instr) (s : State) : ∃ d, d ≠ .unrecognized ∧ exec i s = .next (s.list d) := by
  cases i <;> exact ⟨_, Decoded.noConfusion, rfl⟩

/-- Every word, recognised or not, lists one decoded value. -/
theorem runWord_lists (w : Word) (s : State) : ∃ d, runWord w s = .next (s.list d) := by
  unfold runWord
  split
  · obtain ⟨d, -, h⟩ := exec_emits _ s
    exact ⟨d, h⟩
  · exact ⟨_, rfl⟩

/-- A step in `DONE`: the pass has ended, or the word at the cursor runs, or the buffer has no entry there. -/
theorem listStep_cases (cap : Word) (s : State) :
    (s.count.toNat ≤ s.cursor ∧ listStep cap s = .next s) ∨
    (∃ w, s.cursor < s.count.toNat ∧ fetchWord cap s = some w ∧ listStep cap s = runWord w s) ∨
    (s.cursor < s.count.toNat ∧ fetchWord cap s = none ∧ listStep cap s = .fault .outsideBuffer) := by
  unfold listStep
  split
  · cases h : fetchWord cap s with
    | none => exact .inr (.inr ⟨‹_›, rfl, rfl⟩)
    | some w => exact .inr (.inl ⟨w, ‹_›, rfl, rfl⟩)
  · exact .inl ⟨by omega, rfl⟩

/-- A step, by phase. -/
theorem step_cases (s : State) :
    (s.phase.reading = true ∧ step s = readStep s) ∨
    (s.phase = .done ∧ step s = listStep Config.capWords s) ∨
    (s.phase = .error ∧ step s = .next s) := by
  unfold step
  cases h : s.phase <;> simp [Phase.reading]

/-- The step of a state that presents a word. -/
theorem step_of_presents {s : State} {w : Word} (h : Presents s w) : step s = runWord w s := by
  obtain ⟨hp, hc, hr⟩ := h
  simp [step, hp, listStep, hc, hr]

/-- After `withFetchWord` the machine presents the word. -/
theorem withFetchWord_presents (s : State) (n w : Nat) : Presents (s.withFetchWord n w) (BitVec.ofNat 32 w) := by
  refine ⟨rfl, ?_, ?_⟩
  · simp
  · exact State.bufWord_of_written _ (by simp [WordStore.read])

end Sys2Proof.Machine
end

