-- ==== Sys2Proof/Laws/PerInstr.lean ====
section
/-! SUPPORT. Per instruction: what holds of every instruction as syntax. -/

namespace Sys2Proof.Laws.Selected

/-- The fields of an instruction's word select its own mnemonic: its row's opcode, and funct for an R-type row (R79). -/
def Statement (i : Instr) : Prop := selects (extract (encode i)) = .ok i.mnemonic

/-- An R-type word is selected by its funct. -/
theorem ofFunct (rs rt rd shamt : Spec5) (funct : BitVec 6) (m : Mnemonic) (h : functTable funct = some m) :
    selects (extract (rWord rs rt rd shamt funct)) = .ok m := by
  obtain ⟨ho, -, -, -, -, hf⟩ := extract_rWord rs rt rd shamt funct
  simp [selects, ho, hf, h]

/-- An I-type word is selected by its opcode. -/
theorem ofOpcodeI (opcode : BitVec 6) (rs rt : Spec5) (simm : Int) (m : Mnemonic) (h0 : opcode ≠ 0)
    (h : opcodeTable opcode = some m) : selects (extract (iWord opcode rs rt simm)) = .ok m := by
  obtain ⟨ho, -, -, -⟩ := extract_iWord opcode rs rt simm
  rw [selects, ho, if_neg h0, h]

/-- A J-type word is selected by its opcode. -/
theorem ofOpcodeJ (opcode : BitVec 6) (addr : BitVec 26) (m : Mnemonic) (h0 : opcode ≠ 0)
    (h : opcodeTable opcode = some m) : selects (extract (jWord opcode addr)) = .ok m := by
  obtain ⟨ho, -⟩ := extract_jWord opcode addr
  rw [selects, ho, if_neg h0, h]

theorem sll (rd : Spec5) (rs : Spec5) (shamt : Spec5) : Statement (.sll rd rs shamt) := ofFunct _ _ _ _ _ _ rfl
theorem sra (rd : Spec5) (rs : Spec5) (shamt : Spec5) : Statement (.sra rd rs shamt) := ofFunct _ _ _ _ _ _ rfl
theorem jr (rs : Spec5) : Statement (.jr rs) := ofFunct _ _ _ _ _ _ rfl
theorem mfhi (rd : Spec5) : Statement (.mfhi rd) := ofFunct _ _ _ _ _ _ rfl
theorem mflo (rd : Spec5) : Statement (.mflo rd) := ofFunct _ _ _ _ _ _ rfl
theorem mult (rd : Spec5) (rt : Spec5) : Statement (.mult rd rt) := ofFunct _ _ _ _ _ _ rfl
theorem div (rd : Spec5) (rt : Spec5) : Statement (.div rd rt) := ofFunct _ _ _ _ _ _ rfl
theorem addu (rd : Spec5) (rs : Spec5) (rt : Spec5) : Statement (.addu rd rs rt) := ofFunct _ _ _ _ _ _ rfl
theorem sub (rd : Spec5) (rs : Spec5) (rt : Spec5) : Statement (.sub rd rs rt) := ofFunct _ _ _ _ _ _ rfl
theorem subu (rd : Spec5) (rs : Spec5) (rt : Spec5) : Statement (.subu rd rs rt) := ofFunct _ _ _ _ _ _ rfl
theorem slt (rd : Spec5) (rs : Spec5) (rt : Spec5) : Statement (.slt rd rs rt) := ofFunct _ _ _ _ _ _ rfl
theorem j (addr : BitVec 26) : Statement (.j addr) := ofOpcodeJ _ _ _ (by decide) rfl
theorem jal (addr : BitVec 26) : Statement (.jal addr) := ofOpcodeJ _ _ _ (by decide) rfl
theorem beq (rs : Spec5) (rt : Spec5) (simm : Int) : Statement (.beq rs rt simm) := ofOpcodeI _ _ _ _ _ (by decide) rfl
theorem bne (rs : Spec5) (rt : Spec5) (simm : Int) : Statement (.bne rs rt simm) := ofOpcodeI _ _ _ _ _ (by decide) rfl
theorem addiu (rt : Spec5) (rs : Spec5) (simm : Int) : Statement (.addiu rt rs simm) := ofOpcodeI _ _ _ _ _ (by decide) rfl
theorem andi (rt : Spec5) (rs : Spec5) (simm : Int) : Statement (.andi rt rs simm) := ofOpcodeI _ _ _ _ _ (by decide) rfl
theorem lui (rt : Spec5) (simm : Int) : Statement (.lui rt simm) := ofOpcodeI _ _ _ _ _ (by decide) rfl
theorem trap (addr : BitVec 26) : Statement (.trap addr) := ofOpcodeJ _ _ _ (by decide) rfl
theorem lw (rt : Spec5) (simm : Int) (rs : Spec5) : Statement (.lw rt simm rs) := ofOpcodeI _ _ _ _ _ (by decide) rfl
theorem sw (rt : Spec5) (simm : Int) (rs : Spec5) : Statement (.sw rt simm rs) := ofOpcodeI _ _ _ _ _ (by decide) rfl

end Sys2Proof.Laws.Selected
end

