-- ==== Sys2Proof/Tests/Slice0.lean ====
section
/-! SUPPORT. The model's own tests, each against a value of the spec (95_test_vectors.md unless said otherwise), and a witness of
the hypotheses of each statement. -/

namespace Sys2Proof.Tests

open Sys2Proof Sys2Proof.Machine

/-- A state that presents the word `w` at the pc `pc`. -/
def at' (pc w : Word) : State := { State.reset.withFetchWord 32 w.toNat with start := pc }

theorem at_presents (pc w : Word) : Presents (at' pc w) w := by
  refine ⟨rfl, Nat.zero_lt_one, ?_⟩
  exact State.bufWord_of_written _ (by simp [at', WordStore.read, State.withFetchWord, loadOneWord])

/-- The listing after one step. -/
def listed (s : State) : Option Text := (nextOf (step s)).map (·.listing)

/-- Bytes of a container, as events. -/
def bytes (l : List Nat) : List InputEvent := l.map fun n => .byte (BitVec.ofNat 8 n)

/-- The reader after the events, from reset, with a buffer of `cap` words. -/
def fed (cap : Word) (es : List InputEvent) : Option State := nextOf (feed cap es State.reset)

/-! ### Well-formedness: an ill-formed term for each check is refused -/

theorem test_wf_refuses_beq : Instr.wf (.beq 8 9 32768) = false := by decide
theorem test_wf_refuses_bne : Instr.wf (.bne 8 9 (-32769)) = false := by decide
theorem test_wf_refuses_addiu : Instr.wf (.addiu 8 9 32768) = false := by decide
theorem test_wf_refuses_andi : Instr.wf (.andi 8 9 65535) = false := by decide
theorem test_wf_refuses_lui : Instr.wf (.lui 8 32768) = false := by decide
theorem test_wf_refuses_lw : Instr.wf (.lw 8 (-32769) 9) = false := by decide
theorem test_wf_refuses_sw : Instr.wf (.sw 8 32768 9) = false := by decide
theorem test_decoded_wf_refuses_triad : Decoded.wf (.triad .sll 8 9 10) = false := by decide
theorem test_decoded_wf_refuses_shift : Decoded.wf (.shift .addu 8 9 4) = false := by decide
theorem test_decoded_wf_refuses_single : Decoded.wf (.single .mult 8) = false := by decide
theorem test_decoded_wf_refuses_pair : Decoded.wf (.pair .jr 8 9) = false := by decide
theorem test_decoded_wf_refuses_regRegImm_mnemonic : Decoded.wf (.regRegImm .lui 8 9 0) = false := by decide
theorem test_decoded_wf_refuses_regRegImm_range : Decoded.wf (.regRegImm .andi 8 9 65535) = false := by decide
theorem test_decoded_wf_refuses_regImm_mnemonic : Decoded.wf (.regImm .addiu 8 0) = false := by decide
theorem test_decoded_wf_refuses_regImm_range : Decoded.wf (.regImm .lui 8 32768) = false := by decide
theorem test_decoded_wf_refuses_memory_mnemonic : Decoded.wf (.memory .addiu 8 0 9) = false := by decide
theorem test_decoded_wf_refuses_memory_range : Decoded.wf (.memory .lw 8 (-32769) 9) = false := by decide
theorem test_decoded_wf_refuses_absJump_mnemonic : Decoded.wf (.absJump .beq 0) = false := by decide
theorem test_decoded_wf_refuses_absJump_target : Decoded.wf (.absJump .j 2) = false := by decide
theorem test_decoded_wf_refuses_branch : Decoded.wf (.branch .j 8 9 0) = false := by decide
theorem test_decoded_wf_refuses_trapAddr : Decoded.wf (.trapAddr .j 0) = false := by decide
theorem test_source_wf_refuses_event_after_end : sourceWf [.sourceEnd, .byte 0] = false := by decide
theorem test_source_wf_refuses_event_after_fail : sourceWf [.byte 1, .fail, .sourceEnd] = false := by decide
theorem test_store_wf_refuses_falling_indices : ¬ WordStore.wf [(1, 0), (0, 0)] := by decide
theorem test_store_wf_refuses_repeated_index : ¬ WordStore.wf [(1, 0), (1, 5)] := by decide

/-! ### Decoding: each instruction's word, bit by bit from its pattern (R120 to R130, R140 to R150) -/

theorem test_decode_sll : decodeTableWord 32 0b000000_10000_01001_01000_00100_000000 = some (.sll 8 16 4) := by decide
theorem test_decode_sra : decodeTableWord 32 0b000000_10001_00000_01001_11111_000011 = some (.sra 9 17 31) := by decide
theorem test_decode_jr : decodeTableWord 32 0b000000_11111_01001_01000_00011_001000 = some (.jr 31) := by decide
theorem test_decode_mfhi : decodeTableWord 32 0b000000_00000_00000_01000_00000_010000 = some (.mfhi 8) := by decide
theorem test_decode_mflo : decodeTableWord 32 0b000000_00000_00000_01001_00000_010010 = some (.mflo 9) := by decide
theorem test_decode_mult : decodeTableWord 32 0b000000_10001_01001_01000_00000_011000 = some (.mult 8 9) := by decide
theorem test_decode_div : decodeTableWord 32 0b000000_10000_10001_01001_00000_011010 = some (.div 9 17) := by decide
theorem test_decode_addu : decodeTableWord 32 0b000000_10000_10001_01000_00011_100001 = some (.addu 8 16 17) := by decide
theorem test_decode_sub : decodeTableWord 32 0b000000_01000_01001_10000_00000_100010 = some (.sub 16 8 9) := by decide
theorem test_decode_subu : decodeTableWord 32 0b000000_11101_01000_11101_00000_100011 = some (.subu 29 29 8) := by decide
theorem test_decode_slt : decodeTableWord 32 0b000000_10000_10001_01000_00000_101010 = some (.slt 8 16 17) := by decide
theorem test_decode_j : decodeTableWord 32 0b000010_00000100000000000000000000 = some (.j 0x100000) := by decide
theorem test_decode_jal : decodeTableWord 32 0b000011_00000100000000000000010000 = some (.jal 0x100010) := by decide
theorem test_decode_beq : decodeTableWord 32 0b000100_01000_01001_1111111111111111 = some (.beq 8 9 (-1)) := by decide
theorem test_decode_bne : decodeTableWord 32 0b000101_10000_10001_1111111111111110 = some (.bne 16 17 (-2)) := by decide
theorem test_decode_addiu : decodeTableWord 32 0b001001_11101_11101_1111111111111000 = some (.addiu 29 29 (-8)) := by decide
theorem test_decode_andi : decodeTableWord 32 0b001100_10000_01000_1111111111111111 = some (.andi 8 16 (-1)) := by decide
theorem test_decode_lui : decodeTableWord 32 0b001111_11101_01001_0001000000000000 = some (.lui 9 4096) := by decide
theorem test_decode_trap : decodeTableWord 32 0b011010_00000000000000000000001010 = some (.trap 0xA) := by decide
theorem test_decode_lw : decodeTableWord 32 0b100011_11101_01001_0000000000000100 = some (.lw 9 4 29) := by decide
theorem test_decode_sw : decodeTableWord 32 0b101011_11101_11111_1111111111111000 = some (.sw 31 (-8) 29) := by decide
theorem test_decode_zero_word_is_sll : decodeTableWord 32 0 = some (.sll 0 0 0) := by decide
theorem test_decode_rejects_funct_next_to_jr : decodeWord 0x00000009 = .error (.unrecognizedFunct 0x09) := by rfl
theorem test_decode_rejects_opcode_next_to_trap : decodeWord 0x6C000000 = .error (.unrecognizedOpcode 0x1b) := by rfl
theorem test_decode_rejects_three_bytes : decodeBytes [0x03, 0xE0, 0x00] = .error .shortWord := by rfl
theorem test_extract_all_fields : extract 0xAAAAAAAA =
    { opcode := 0x2a, rs := 21, rt := 10, rd := 21, shamt := 10, funct := 0x2a, imm := 0xaaaa, simm := -21846,
      addr := 0x2aaaaaa } := by decide

/-! ### Lines: one step of each instruction (sections 2.5, 2.6, 2.7) -/

theorem test_line_sll : listed (at' 0x00400000 0x02094100) = some "00400000: sll $t0, $s0, 4\n".toList := by decide
theorem test_line_sra : listed (at' 0x00400000 0x02204FC3) = some "00400000: sra $t1, $s1, 31\n".toList := by decide
theorem test_line_jr : listed (at' 0x00000000 0x03E00008) = some "00000000: jr $ra\n".toList := by decide
theorem test_line_mfhi : listed (at' 0xFFFFFFFC 0x00004010) = some "fffffffc: mfhi $t0\n".toList := by decide
theorem test_line_mflo : listed (at' 0x00400000 0x00004812) = some "00400000: mflo $t1\n".toList := by decide
theorem test_line_mult : listed (at' 0x00400000 0x02294018) = some "00400000: mult $t0, $t1\n".toList := by decide
theorem test_line_div : listed (at' 0x00400000 0x0211481A) = some "00400000: div $t1, $s1\n".toList := by decide
theorem test_line_addu : listed (at' 0x00400000 0x021140E1) = some "00400000: addu $t0, $s0, $s1\n".toList := by decide
theorem test_line_sub : listed (at' 0x00400000 0x01098022) = some "00400000: sub $s0, $t0, $t1\n".toList := by decide
theorem test_line_subu : listed (at' 0x00400000 0x03A8E823) = some "00400000: subu $sp, $sp, $t0\n".toList := by decide
theorem test_line_slt : listed (at' 0x00400000 0x0211402A) = some "00400000: slt $t0, $s0, $s1\n".toList := by decide
theorem test_line_j : listed (at' 0x0FFFFFFC 0x08000010) = some "0ffffffc: j 10000040\n".toList := by decide
theorem test_line_jal : listed (at' 0x00400000 0x0C100010) = some "00400000: jal 400040\n".toList := by decide
theorem test_line_beq : listed (at' 0x00400000 0x1109FFFF) = some "00400000: beq $t0, $t1, 400000\n".toList := by decide
theorem test_line_bne : listed (at' 0xFFFFFFF8 0x15097FFF) = some "fffffff8: bne $t0, $t1, 1fff8\n".toList := by decide
theorem test_line_addiu : listed (at' 0x00400000 0x26088000) = some "00400000: addiu $t0, $s0, -32768\n".toList := by decide
theorem test_line_andi : listed (at' 0x00400000 0x3208FFFF) = some "00400000: andi $t0, $s0, -1\n".toList := by decide
theorem test_line_lui : listed (at' 0x00400000 0x3FA91000) = some "00400000: lui $t1, 4096\n".toList := by decide
theorem test_line_trap : listed (at' 0x00400000 0x6BFFFFFF) = some "00400000: trap 3ffffff\n".toList := by decide
theorem test_line_lw : listed (at' 0x0040000C 0x8FA90004) = some "0040000c: lw $t1, 4($sp)\n".toList := by decide
theorem test_line_sw : listed (at' 0x00400000 0xAFBFFFF8) = some "00400000: sw $ra, -8($sp)\n".toList := by decide
theorem test_line_unrecognized : step (at' 0xABCDEF00 0xFC000000) =
    .next (printed (at' 0xABCDEF00 0xFC000000) unrecognizedToken) := by
  rw [step_of_presents (at_presents 0xABCDEF00 0xFC000000)]
  exact congrArg Host.Outcome.next (State.list_eq_printed .unrecognized (at' 0xABCDEF00 0xFC000000))
theorem test_line_default_names :
    formatWith defaultRegName [] 0x00400000 (decode 0x00400000 0) = "00400000: sll $zero, $zero, 0".toList := by decide

/-! ### Targets (sections 2.3, 2.4) -/

theorem test_branch_backward_most : branchTarget 0x00400000 (sext32 0x8000) = 0x003E0004 := by decide
theorem test_branch_wraps_below : branchTarget 0 (sext32 0x8000) = 0xFFFE0004 := by decide
theorem test_branch_unaligned : branchTarget 0x00400001 (sext32 0xFFFF) = 0x00400001 := by decide
theorem test_jump_region_of_next : jumpTarget 0x8FFFFFFC 0x0000001 = 0x90000004 := by decide
theorem test_jump_region_of_same : jumpTarget 0x8FFFFFFB 0x0000001 = 0x80000004 := by decide
theorem test_jump_wraps : jumpTarget 0xFFFFFFFC 0x0000010 = 0x00000040 := by decide
theorem test_pc_wraps : pcAt 0xFFFFFFF8 2 = 0 := by decide

theorem test_sext_at_the_sign : sext32 0x7FFF = 32767 ∧ sext32 0x8000 = -32768 ∧ sext32 0xFFFF = -1 := by decide

/-! ### The reader (section 2.8) -/

theorem test_reader_R2 : (fed 9 (bytes [0, 0, 0] ++ [.sourceEnd])).map (·.info) = some (some ⟨.count, 0, 3, none⟩) := by decide
theorem test_reader_R3 : (fed 9 (bytes [0, 0, 0, 1, 0, 0x40] ++ [.sourceEnd])).map (fun s => (s.err, s.info, s.count)) =
    some (some .truncatedInput, some ⟨.start, 0, 2, none⟩, 1) := by decide
theorem test_reader_R4 : (fed 0 (bytes [0, 0, 0, 0, 0, 0x40, 0, 0])).map (·.container) =
    some (some { count := 0, start := 0x00400000, words := [] }) := by decide
theorem test_reader_R5 : (fed 9 (bytes [0, 0, 0, 2, 0, 0x40, 0, 0, 0x02, 0x11, 0x40, 0x21] ++ [.sourceEnd])).map
    (fun s => (s.err, s.info, s.index, s.buf)) = some (some .truncatedInput, some ⟨.words, 1, 0, none⟩, 1, [(0, 0x02114021)]) := by decide
theorem test_reader_R6 : (fed 9 (bytes [0, 0, 0, 1, 0, 0, 0, 0, 0x8F, 0xA9] ++ [.fail])).map (fun s => (s.err, s.info)) =
    some (some .ioError, some ⟨.words, 0, 2, none⟩) := by decide
theorem test_reader_R7 : (fed 1 (bytes [0, 0, 0, 1, 0, 0, 0, 0, 0x03, 0xE0, 0, 8, 0xDE, 0xAD] ++ [.sourceEnd])).map (·.container) =
    some (some { count := 1, start := 0, words := [0x03E00008] }) := by decide
theorem test_reader_R9 : (fed 1 (bytes [0, 0, 0, 2, 0, 0, 0, 0])).map (fun s => (s.phase, s.err, s.info, s.count)) =
    some (.error, some .capacityExceeded, some ⟨.start, 0, 0, some 2⟩, 2) := by decide
theorem test_reader_R10 : (fed 1 (bytes [0, 0, 0, 2, 0, 0] ++ [.sourceEnd])).map (fun s => (s.err, s.info)) =
    some (some .truncatedInput, some ⟨.start, 0, 2, none⟩) := by decide
theorem test_reader_R12 : (fed 9 [.fail]).map (fun s => (s.err, s.info)) = some (some .ioError, some ⟨.count, 0, 0, none⟩) := by decide
theorem test_functional_form_R11 :
    (match readContainer 0xFFFFFFFF [0xFF, 0xFF, 0xFF, 0xFF, 0, 0, 0, 0] .sourceEnd with
      | .ok _ => none
      | .error e => some e) = some .truncatedInput := by decide

/-! ### Witnesses: states and operands that meet each statement's hypotheses together -/


/-- A one-word container that has been read, its word not yet listed. -/
def loaded : State := at' 0x00400000 0x02114021

/-- The same after its one line. -/
def finished : State := loaded.list (.triad .addu 8 16 17)

theorem loaded_inv : loaded.Inv := by
  refine ⟨⟨by decide, by decide⟩, ⟨by decide, nofun, nofun, nofun, fun _ => rfl⟩, ⟨by decide, fun _ => rfl⟩, rfl,
    ⟨by decide, fun _ => rfl, rfl⟩, rfl⟩

theorem finished_inv : finished.Inv := by
  refine ⟨⟨by decide, by decide⟩, ⟨by decide, nofun, nofun, nofun, fun _ => rfl⟩, ⟨by decide, fun _ => rfl⟩, rfl,
    ⟨by decide, fun h => absurd rfl h, rfl⟩, rfl⟩

/-- A pass that ended in an error, with one word stored (S-D). -/
def failed : State :=
  { State.reset with phase := .error, count := 2, start := 0x00400000, index := 1, buf := [(0, 0x02114021)],
                     err := some .truncatedInput, info := some ⟨.words, 1, 0, none⟩ }

theorem failed_inv : failed.Inv := by
  refine ⟨⟨by decide, by decide⟩, ⟨by decide, nofun, nofun, nofun, nofun⟩, ⟨by decide, nofun⟩, rfl,
    ⟨by decide, fun _ => rfl, rfl⟩, rfl⟩

theorem witness_EncodedInstructionsDecodeBack :
    Instr.wf (.addiu 31 0 (-32768)) = true ∧ Instr.wf (.lw 0 32767 31) = true := by decide
theorem witness_DecodingLosesOnlyDontCareBits : decodeWord 0x03E940C8 = .ok (.jr 31) := by rfl
theorem witness_UnusedBitsDoNotMatter :
    (0x03E00008 : Word) &&& rowMask .jr = rowMatch .jr ∧ (0x03E940C8 : Word) &&& usedBits .jr = (0x03E00008 : Word) &&& usedBits .jr := by
  decide
theorem witness_DecodeReadsThePcOnlyForTargets :
    (∀ m t, decode 0 0x00004010 ≠ .absJump m t) ∧ (∀ m rs rt t, decode 0 0x00004010 ≠ .branch m rs rt t) := by
  have h : decode 0 0x00004010 = .single .mfhi 8 := rfl
  rw [h]
  exact ⟨nofun, nofun⟩
theorem witness_TheTwoTablesAreKeptApart :
    (extract 0x8FA90004).opcode ≠ 0 ∧ (extract 0x8C000000).opcode = (extract 0x8FA90004).opcode ∧
    (extract 0x0211481A).opcode = 0 ∧ (extract 0x0000001A).opcode = 0 ∧
    (extract 0x0000001A).funct = (extract 0x0211481A).funct := by decide
theorem witness_DecSpellsTheSignedValue : 0 < 32768 := by decide
theorem witness_RegisterNamesAgreeWithTheFixedEntries : fixedRegName 8 = some "$t0".toList := by rfl

theorem witness_ShiftsListRdRsShamt :
    (Presents (at' 0x0FFFFFFC 0x02094100) 0x02094100 ∧ (0x02094100 : Word) &&& 0xFC00003F = 0x00000000) ∧
    (Presents (at' 0x0FFFFFFC 0x02204FC3) 0x02204FC3 ∧ (0x02204FC3 : Word) &&& 0xFC00003F = 0x00000003) :=
  ⟨⟨at_presents 0x0FFFFFFC 0x02094100, by decide⟩, ⟨at_presents 0x0FFFFFFC 0x02204FC3, by decide⟩⟩
theorem witness_JrListsRs :
    (Presents (at' 0x0FFFFFFC 0x03E00008) 0x03E00008 ∧ (0x03E00008 : Word) &&& 0xFC00003F = 0x00000008) :=
  ⟨at_presents 0x0FFFFFFC 0x03E00008, by decide⟩
theorem witness_MovesFromHiLoListRd :
    (Presents (at' 0x0FFFFFFC 0x00004010) 0x00004010 ∧ (0x00004010 : Word) &&& 0xFC00003F = 0x00000010) ∧
    (Presents (at' 0x0FFFFFFC 0x00004812) 0x00004812 ∧ (0x00004812 : Word) &&& 0xFC00003F = 0x00000012) :=
  ⟨⟨at_presents 0x0FFFFFFC 0x00004010, by decide⟩, ⟨at_presents 0x0FFFFFFC 0x00004812, by decide⟩⟩
theorem witness_MultAndDivListRdRt :
    (Presents (at' 0x0FFFFFFC 0x02294018) 0x02294018 ∧ (0x02294018 : Word) &&& 0xFC00003F = 0x00000018) ∧
    (Presents (at' 0x0FFFFFFC 0x0211481A) 0x0211481A ∧ (0x0211481A : Word) &&& 0xFC00003F = 0x0000001A) :=
  ⟨⟨at_presents 0x0FFFFFFC 0x02294018, by decide⟩, ⟨at_presents 0x0FFFFFFC 0x0211481A, by decide⟩⟩
theorem witness_TriadsListRdRsRt :
    (Presents (at' 0x0FFFFFFC 0x021140E1) 0x021140E1 ∧ (0x021140E1 : Word) &&& 0xFC00003F = 0x00000021) ∧
    (Presents (at' 0x0FFFFFFC 0x01098022) 0x01098022 ∧ (0x01098022 : Word) &&& 0xFC00003F = 0x00000022) ∧
    (Presents (at' 0x0FFFFFFC 0x03A8E823) 0x03A8E823 ∧ (0x03A8E823 : Word) &&& 0xFC00003F = 0x00000023) ∧
    (Presents (at' 0x0FFFFFFC 0x0211402A) 0x0211402A ∧ (0x0211402A : Word) &&& 0xFC00003F = 0x0000002A) :=
  ⟨⟨at_presents 0x0FFFFFFC 0x021140E1, by decide⟩, ⟨at_presents 0x0FFFFFFC 0x01098022, by decide⟩, ⟨at_presents 0x0FFFFFFC 0x03A8E823, by decide⟩, ⟨at_presents 0x0FFFFFFC 0x0211402A, by decide⟩⟩
theorem witness_JumpsListTheirTarget :
    (Presents (at' 0x0FFFFFFC 0x08000010) 0x08000010 ∧ (0x08000010 : Word) &&& 0xFC000000 = 0x08000000) ∧
    (Presents (at' 0x0FFFFFFC 0x0C100010) 0x0C100010 ∧ (0x0C100010 : Word) &&& 0xFC000000 = 0x0C000000) :=
  ⟨⟨at_presents 0x0FFFFFFC 0x08000010, by decide⟩, ⟨at_presents 0x0FFFFFFC 0x0C100010, by decide⟩⟩
theorem witness_BranchesListRsRtAndTarget :
    (Presents (at' 0x0FFFFFFC 0x1109FFFF) 0x1109FFFF ∧ (0x1109FFFF : Word) &&& 0xFC000000 = 0x10000000) ∧
    (Presents (at' 0x0FFFFFFC 0x15097FFF) 0x15097FFF ∧ (0x15097FFF : Word) &&& 0xFC000000 = 0x14000000) :=
  ⟨⟨at_presents 0x0FFFFFFC 0x1109FFFF, by decide⟩, ⟨at_presents 0x0FFFFFFC 0x15097FFF, by decide⟩⟩
theorem witness_RegisterImmediatesListRtRsSimm :
    (Presents (at' 0x0FFFFFFC 0x26088000) 0x26088000 ∧ (0x26088000 : Word) &&& 0xFC000000 = 0x24000000) ∧
    (Presents (at' 0x0FFFFFFC 0x3208FFFF) 0x3208FFFF ∧ (0x3208FFFF : Word) &&& 0xFC000000 = 0x30000000) :=
  ⟨⟨at_presents 0x0FFFFFFC 0x26088000, by decide⟩, ⟨at_presents 0x0FFFFFFC 0x3208FFFF, by decide⟩⟩
theorem witness_LuiListsRtSimm :
    (Presents (at' 0x0FFFFFFC 0x3FA91000) 0x3FA91000 ∧ (0x3FA91000 : Word) &&& 0xFC000000 = 0x3C000000) :=
  ⟨at_presents 0x0FFFFFFC 0x3FA91000, by decide⟩
theorem witness_TrapListsItsRawAddress :
    (Presents (at' 0x0FFFFFFC 0x6BFFFFFF) 0x6BFFFFFF ∧ (0x6BFFFFFF : Word) &&& 0xFC000000 = 0x68000000) :=
  ⟨at_presents 0x0FFFFFFC 0x6BFFFFFF, by decide⟩
theorem witness_LoadsAndStoresListRtAndOffsetBase :
    (Presents (at' 0x0FFFFFFC 0x8FA90004) 0x8FA90004 ∧ (0x8FA90004 : Word) &&& 0xFC000000 = 0x8C000000) ∧
    (Presents (at' 0x0FFFFFFC 0xAFBFFFF8) 0xAFBFFFF8 ∧ (0xAFBFFFF8 : Word) &&& 0xFC000000 = 0xAC000000) :=
  ⟨⟨at_presents 0x0FFFFFFC 0x8FA90004, by decide⟩, ⟨at_presents 0x0FFFFFFC 0xAFBFFFF8, by decide⟩⟩
theorem witness_UnrecognizedWordsListTheToken :
    (decode (at' 0 0xFC000000).pc 0xFC000000 = .unrecognized ∧ Presents (at' 0 0xFC000000) 0xFC000000) ∧
    (decode (at' 0 0x0022183F).pc 0x0022183F = .unrecognized ∧ Presents (at' 0 0x0022183F) 0x0022183F) :=
  ⟨⟨rfl, at_presents 0 0xFC000000⟩, ⟨rfl, at_presents 0 0x0022183F⟩⟩
theorem witness_StepRunsTheDecodedInstruction : Presents loaded 0x02114021 ∧ decodeWord 0x02114021 = .ok (.addu 8 16 17) :=
  ⟨at_presents 0x00400000 0x02114021, rfl⟩
theorem witness_EveryPresentedWordListsItsDecodedValue : Presents loaded 0x02114021 := at_presents 0x00400000 0x02114021
theorem witness_InstructionsChangeOnlyTheListing : exec (.addu 8 16 17) loaded = .next finished := rfl
theorem witness_ThePcAdvancesByFourWhateverIsDecoded :
    Presents (at' 0xFFFFFFFD 0x08000010) 0x08000010 ∧ ∃ t, step (at' 0xFFFFFFFD 0x08000010) = .next t :=
  ⟨at_presents 0xFFFFFFFD 0x08000010, _, rfl⟩
theorem witness_LinesDependOnPcAndWordAlone :
    Presents loaded 0x02114021 ∧ Presents { loaded with listing := ['x'], input := [.fail] } 0x02114021 ∧
    loaded.pc = State.pc { loaded with listing := ['x'], input := [.fail] } :=
  ⟨at_presents 0x00400000 0x02114021, at_presents 0x00400000 0x02114021, rfl⟩
theorem witness_AFetchWordRunsNext : decodeTableWord 32 0x6800000A = some (.trap 0xA) := by decide
theorem witness_FourBytesMakeTheCount : State.reset.phase = .count ∧ State.reset.nbytes = 0 := by decide
theorem witness_FourBytesMakeTheStartAndEndTheHeader :
    ∀ n ∈ [0, 1, 2], (State.reset.latchCount n).phase = .start ∧ (State.reset.latchCount n).nbytes = 0 ∧
      (State.reset.latchCount n).count = n := fun _ _ => ⟨rfl, rfl, rfl⟩
theorem witness_FourBytesStoreTheNextWord :
    State.phase { State.reset with phase := .words, count := 1 } = .words ∧
    State.nbytes { State.reset with phase := .words, count := 1 } = 0 ∧
    (State.index { State.reset with phase := .words, count := 1 }).toNat < (1 : Word).toNat := by decide
theorem witness_SourceEndAndFailureRaiseTheirErrors :
    (State.boot [.sourceEnd]).phase.reading = true ∧ (State.boot [.sourceEnd]).input = .sourceEnd :: [] ∧
    (State.boot [.fail]).phase.reading = true ∧ (State.boot [.fail]).input = .fail :: [] := by decide
theorem witness_RaisedErrorsFreezeTheStateAndRecordTheSite :
    (State.phase { State.reset with phase := .words, nbytes := 3, input := [.fail] }).reading = true ∧
    State.input { State.reset with phase := .words, nbytes := 3, input := [.fail] } = .fail :: [] := by decide
theorem witness_TheContainerIsImmutableOnceRead :
    (loaded.phase = .done ∧ step loaded = .next finished) ∧ (failed.phase = .error ∧ step failed = .next failed) :=
  ⟨⟨rfl, rfl⟩, ⟨rfl, rfl⟩⟩
theorem witness_ErrorsArePermanent : failed.phase = .error := rfl
theorem witness_NoLineWithoutACompleteContainer :
    (step loaded = .next finished ∧ finished.listing ≠ loaded.listing) ∧ (failed.Inv ∧ failed.phase = .error) :=
  ⟨⟨rfl, by decide⟩, ⟨failed_inv, rfl⟩⟩
theorem witness_IdleStepsChangeNothing :
    (State.reset.phase.reading = true ∧ State.reset.input = []) ∧
    (finished.phase = .done ∧ finished.count.toNat ≤ finished.cursor) := by decide
theorem witness_TheInvariantHoldsAtReset : sourceWf (eventsOf [0, 1] .fail) = true := by decide
theorem witness_EveryStepKeepsTheInvariant : loaded.Inv ∧ step loaded = .next finished := ⟨loaded_inv, rfl⟩
theorem witness_NoStepStopsUnderTheInvariant : failed.Inv ∧ loaded.Inv := ⟨failed_inv, loaded_inv⟩
theorem witness_AFinishedPassHasListedTheContainer :
    finished.Inv ∧ finished.phase = .done ∧ finished.cursor = finished.count.toNat := ⟨finished_inv, rfl, rfl⟩
theorem witness_TrailingBytesAreNotRead :
    readContainer 1 [0, 0, 0, 1, 0, 0, 0, 0, 0x03, 0xE0, 0, 8] .sourceEnd =
      .ok { count := 1, start := 0, words := [0x03E00008] } := by rfl
theorem witness_StoresThatReadAlikeAreEqual :
    WordStore.wf [(0, 5), (7, 9)] ∧ WordStore.wf (WordStore.write (WordStore.write [] 7 9) 0 5) ∧
    ∀ k, WordStore.read [(0, 5), (7, 9)] k = (WordStore.write (WordStore.write [] 7 9) 0 5).read k :=
  ⟨by decide, by decide, fun _ => rfl⟩
/-- A pass whose next entry nothing has written. -/
def unwritten : State := { State.reset with phase := .done, count := 1 }

theorem witness_StepsStopOnlyOnBrokenStates :
    listStep 0 unwritten = .fault .outsideBuffer ∧
    readEvent 0 (.byte 0) { State.reset with phase := .words, nbytes := 3, count := 1 } = .fault .outsideBuffer := ⟨rfl, rfl⟩
theorem witness_EveryEntryHoldsAWordAndThePassGoesOn :
    unwritten.phase = .done ∧ unwritten.cursor < unwritten.count.toNat ∧ unwritten.cursor < (1 : Word).toNat ∧
    unwritten.buf.read unwritten.cursor = none := by decide
theorem test_the_array_has_an_entry_below_the_capacity_only :
    (unwritten.bufWord 1 0).isSome = true ∧ unwritten.bufWord 1 1 = none := by decide

end Sys2Proof.Tests
end

section
/-! PROOFS. The container reader (20_memory.md R41 to R50): what one event does, what four bytes do, and the statements on them. -/

namespace Sys2Proof.Machine

/-! ### The value of a field -/

/-- Four bytes fill the accumulator: whatever it held is shifted out, and the first byte stands on top (R41, R45). -/
theorem shiftIn_four (acc : Word) (b0 b1 b2 b3 : Byte) :
    shiftIn (shiftIn (shiftIn (shiftIn acc b0) b1) b2) b3 = beWord b0 b1 b2 b3 := by
  have h0 := b0.isLt
  have h1 := b1.isLt
  have h2 := b2.isLt
  have h3 := b3.isLt
  apply BitVec.eq_of_toNat_eq
  simp only [toNat_beWord, shiftIn, BitVec.toNat_add, BitVec.toNat_shiftLeft, BitVec.toNat_setWidth, Nat.shiftLeft_eq]
  omega

/-! ### The word store -/

/-- What an index reads after a write, in any store, in canonical form or not. -/
theorem WordStore.read_write (m : WordStore) (k : Nat) (v : Word) (j : Nat) :
    (m.write k v).read j = if j = k then some v else m.read j := by
  induction m with
  | nil => rfl
  | cons p rest ih =>
    obtain ⟨k', v'⟩ := p
    rw [WordStore.write]
    split
    case isTrue => rfl
    case isFalse hlt =>
      split
      case isTrue hk =>
        subst hk
        simp only [WordStore.read]
        split <;> rfl
      case isFalse hk =>
        simp only [WordStore.read, ih]
        by_cases hj : j = k
        · simp [hj, hk]
        · simp [hj]

/-- Storing the next word puts it at `index`; every other entry reads as before (R48). -/
theorem State.bufWord_putWord (cap v : Word) (s : State) (k : Nat) :
    (s.putWord v).bufWord cap k = if k = s.index.toNat then some v else s.bufWord cap k := by
  rw [State.bufWord, State.putWord_buf, WordStore.read_write]
  by_cases hk : k = s.index.toNat
  · rw [if_pos hk, if_pos hk]
  · rw [if_neg hk, if_neg hk]
    rfl

/-- With room in the buffer a word completed in `WORDS` is stored, and reading ends exactly when it is the last (R48). -/
theorem storeWord_of_room {cap : Word} {s : State} (v : Word) (hp : s.phase = .words) (hroom : s.index.toNat < cap.toNat) :
    storeWord cap v s = .next ((s.putWord v).enter (if s.index + 1 = s.count then .done else .words)) := by
  rcases storeWord_cases cap v s with ⟨-, hlast, h⟩ | ⟨-, hmore, h⟩ | ⟨hfull, -⟩
  · rw [h, if_pos hlast]
  · rw [h, if_neg hmore, ← hp]
    rfl
  · omega

/-! ### Events -/

/-- The fourth byte completes the field (R44). -/
theorem readEvent_byte_completes (cap : Word) (b : Byte) {s : State} (h : s.nbytes = 3) :
    readEvent cap (.byte b) s = completeField cap (shiftIn s.acc b) s.takeField := if_neg (by simp [h])

/-- While the reader reads, an event it takes is followed by the rest of the sequence. -/
theorem feed_cons_of_next {cap : Word} {e : InputEvent} {s t : State} (rest : List InputEvent)
    (hr : s.phase.reading = true) (h : readEvent cap e s = .next t) : feed cap (e :: rest) s = feed cap rest t := by
  rw [feed, if_pos hr, h]

/-- While the reader reads, a byte that does not complete its field joins `acc`, and the rest of the sequence follows (R44). -/
theorem feed_byte_gathers {cap : Word} {b : Byte} {rest : List InputEvent} {s : State}
    (hr : s.phase.reading = true) (hn : s.nbytes.val < 3) :
    feed cap (.byte b :: rest) s = feed cap rest (s.gather (shiftIn s.acc b)) :=
  feed_cons_of_next rest hr (if_pos hn)

/-- While the reader reads, four bytes from the start of a field complete it with their big-endian value (R41, R44, R45). -/
theorem feed_four_bytes {cap : Word} {s t : State} (b0 b1 b2 b3 : Byte) (rest : List InputEvent)
    (hr : s.phase.reading = true) (hn : s.nbytes = 0)
    (h : completeField cap (beWord b0 b1 b2 b3) s.takeField = .next t) :
    feed cap (.byte b0 :: .byte b1 :: .byte b2 :: .byte b3 :: rest) s = feed cap rest t := by
  rw [← shiftIn_four s.acc] at h
  rw [feed_byte_gathers, feed_byte_gathers, feed_byte_gathers]
  · exact feed_cons_of_next rest hr ((readEvent_byte_completes cap b3 (by simp [hn])).trans h)
  all_goals simp [hr, hn]

/-- While the reader reads, a step takes the event at the head of the source. -/
theorem step_of_event {s : State} {e : InputEvent} {rest : List InputEvent} (hr : s.phase.reading = true)
    (hi : s.input = e :: rest) : step s = readEvent Config.capWords e { s with input := rest } := by
  rcases step_cases s with ⟨-, h⟩ | ⟨hp, -⟩ | ⟨hp, -⟩
  · rw [h, readStep, hi]
  · simp [hp, Phase.reading] at hr
  · simp [hp, Phase.reading] at hr

/-! ### The statements -/

/-- Settles O39: four bytes complete a field, and a field completed in `COUNT` is latched (R46). -/
theorem fourBytesMakeTheCount : Obligations.FourBytesMakeTheCount := by
  intro cap s b0 b1 b2 b3 hp hn
  have hc : completeField cap (beWord b0 b1 b2 b3) s.takeField =
      .next (s.takeField.latchCount (beWord b0 b1 b2 b3)) := by
    simp [completeField, hp]
  exact ⟨beWord b0 b1 b2 b3, toNat_beWord b0 b1 b2 b3, feed_four_bytes b0 b1 b2 b3 [] (by simp [hp, Phase.reading]) hn hc⟩

/-- Settles O41: four bytes complete a field, a field completed in `WORDS` is stored while there is room, and a store changes the
one entry (R48). -/
theorem fourBytesStoreTheNextWord : Obligations.FourBytesStoreTheNextWord := by
  intro cap s b0 b1 b2 b3 hp hn hroom
  have hc : completeField cap (beWord b0 b1 b2 b3) s.takeField =
      .next ((s.takeField.putWord (beWord b0 b1 b2 b3)).enter (if s.index + 1 = s.count then .done else .words)) := by
    simp only [completeField, State.takeField_phase, hp]
    exact storeWord_of_room _ hp hroom
  refine ⟨beWord b0 b1 b2 b3, _, toNat_beWord b0 b1 b2 b3,
    feed_four_bytes b0 b1 b2 b3 [] (by simp [hp, Phase.reading]) hn hc, fun cap' k => ?_,
    rfl, rfl, rfl, rfl, rfl, rfl, rfl, rfl, rfl, rfl, rfl, rfl⟩
  exact State.bufWord_putWord cap' (beWord b0 b1 b2 b3) s.takeField k

/-- Settles O42: a step of the reader takes the event, and the event raises its error (R49, R50). -/
theorem sourceEndAndFailureRaiseTheirErrors : Obligations.SourceEndAndFailureRaiseTheirErrors := by
  intro s rest hr
  exact ⟨fun hi => ⟨_, step_of_event hr hi, rfl, rfl⟩, fun hi => ⟨_, step_of_event hr hi, rfl, rfl⟩⟩

end Sys2Proof.Machine
end

section
/-! PROOFS. The encoding (30_encoding.md): the fields of a word, sign extension, the two dispatch tables, and how R102's `decode`
agrees with the tables and with the machine's path through `decodeWord` and `exec`. -/

namespace Sys2Proof

/-! ### Fields -/

/-- A field's value is a quotient of the word's value, reduced to the field's width (R75). -/
theorem toNat_field (w : Word) (low width : Nat) :
    (w.extractLsb' low width).toNat = w.toNat / 2 ^ low % 2 ^ width := by
  rw [BitVec.extractLsb'_toNat, Nat.shiftRight_eq_div_pow]

/-- The low field of a word needs no quotient (R75). -/
theorem toNat_lowField (w : Word) (width : Nat) : (w.extractLsb' 0 width).toNat = w.toNat % 2 ^ width := by
  rw [toNat_field, Nat.pow_zero, Nat.div_one]

/-! ### Sign extension -/

/-- What sign extension puts into bits 31:16: sixteen copies of bit 15 (R11). -/
def signFill (v : BitVec 16) : BitVec 16 := if v.getLsbD 15 then 0xFFFF#16 else 0#16

/-- Bit 15 is set from 32768 on. -/
theorem getLsbD_fifteen_iff (v : BitVec 16) : v.getLsbD 15 = true ↔ 32768 ≤ v.toNat := by
  rw [show v.getLsbD 15 = v.msb from (BitVec.msb_eq_getLsbD_last v).symm, BitVec.msb_eq_decide, decide_eq_true_eq]

/-- The 32 bits of a sign-extended value are the fill above the value (R11, R76). -/
theorem asU32_sext32 (v : BitVec 16) : asU32 (sext32 v) = (signFill v ++ v : BitVec (16 + 16)) := by
  have hv := v.isLt
  apply BitVec.eq_of_toNat_eq
  rw [BitVec.toNat_append, ← Nat.shiftLeft_add_eq_or_of_lt hv, Nat.shiftLeft_eq, asU32, BitVec.toNat_ofInt, sext32, signFill]
  by_cases h : 32768 ≤ v.toNat
  · rw [if_pos h, if_pos ((getLsbD_fifteen_iff v).2 h), BitVec.toNat_ofNat]
    omega
  · rw [if_neg h, if_neg (mt (getLsbD_fifteen_iff v).1 h), BitVec.toNat_ofNat]
    omega

/-- Reading the 32 bits of an integer in range as two's complement gives the integer back (R10). -/
theorem asS32_asU32 {n : Int} (hl : -2 ^ 31 ≤ n) (hu : n < 2 ^ 31) : asS32 (asU32 n) = n := by
  rw [asS32, asU32, BitVec.toNat_ofInt]
  split <;> omega

/-! ### The two tables -/

/-- The eleven keys of the R-type table (R80). -/
def functKeys : List (BitVec 6) :=
  [0x00#6, 0x03#6, 0x08#6, 0x10#6, 0x12#6, 0x18#6, 0x1a#6, 0x21#6, 0x22#6, 0x23#6, 0x2a#6]

/-- The ten keys of the table of non-zero opcodes (R81). -/
def opcodeKeys : List (BitVec 6) :=
  [0x02#6, 0x03#6, 0x04#6, 0x05#6, 0x09#6, 0x0c#6, 0x0f#6, 0x1a#6, 0x23#6, 0x2b#6]

/-- A funct has no row exactly when it is none of the eleven (R80, R131). -/
theorem functTable_eq_none_iff (funct : BitVec 6) :
    functTable funct = none ↔ funct ∉ functKeys := by
  revert funct
  decide

/-- An opcode has no row exactly when it is none of the ten (R81, R151). -/
theorem opcodeTable_eq_none_iff (opcode : BitVec 6) :
    opcodeTable opcode = none ↔ opcode ∉ opcodeKeys := by
  revert opcode
  decide

end Sys2Proof

namespace Sys2Proof.Machine

/-! ### The decoder against the tables -/

/-- The value an instruction's line shows at a pc (R101, R104, R105). -/
def decodedOf (pc : Word) : Instr → Decoded
  | .sll rd rs shamt => .shift .sll rd rs shamt
  | .sra rd rs shamt => .shift .sra rd rs shamt
  | .jr rs => .single .jr rs
  | .mfhi rd => .single .mfhi rd
  | .mflo rd => .single .mflo rd
  | .mult rd rt => .pair .mult rd rt
  | .div rd rt => .pair .div rd rt
  | .addu rd rs rt => .triad .addu rd rs rt
  | .sub rd rs rt => .triad .sub rd rs rt
  | .subu rd rs rt => .triad .subu rd rs rt
  | .slt rd rs rt => .triad .slt rd rs rt
  | .j addr => .absJump .j (jumpTarget pc addr)
  | .jal addr => .absJump .jal (jumpTarget pc addr)
  | .beq rs rt simm => .branch .beq rs rt (branchTarget pc simm)
  | .bne rs rt simm => .branch .bne rs rt (branchTarget pc simm)
  | .addiu rt rs simm => .regRegImm .addiu rt rs simm
  | .andi rt rs simm => .regRegImm .andi rt rs simm
  | .lui rt simm => .regImm .lui rt simm
  | .trap addr => .trapAddr .trap addr
  | .lw rt simm rs => .memory .lw rt simm rs
  | .sw rt simm rs => .memory .sw rt simm rs

/-- An instruction's meaning is to list its decoded value at the pc of the word. -/
theorem exec_eq_emit (i : Instr) (s : State) : exec i s = emit (decodedOf s.pc i) s := by
  cases i <;> rfl

/-- No instruction's value is the one the token stands for. -/
theorem decodedOf_ne_unrecognized (pc : Word) (i : Instr) : decodedOf pc i ≠ .unrecognized := by
  cases i <;> exact Decoded.noConfusion

/-- R102's first branch is R80's table: a funct with a row gives its instruction's value, another one `unrecognized`. -/
theorem decodeRType_eq (pc : Word) (f : Fields) :
    decodeRType f = (functTable f.funct).elim .unrecognized fun m => decodedOf pc (instrOf m f) := by
  by_cases hkey : f.funct ∈ functKeys
  · simp only [functKeys, List.mem_cons, List.not_mem_nil, or_false] at hkey
    rcases hkey with h | h | h | h | h | h | h | h | h | h | h <;>
    · rw [decodeRType, h]
      rfl
  · rw [(functTable_eq_none_iff f.funct).2 hkey]
    simp only [functKeys, List.mem_cons, List.not_mem_nil, or_false, not_or] at hkey
    simp [decodeRType, hkey]

/-- R102's second branch is R81's table: an opcode with a row gives its instruction's value, another one `unrecognized`. -/
theorem decodeByOpcode_eq (pc : Word) (f : Fields) :
    decodeByOpcode pc f = (opcodeTable f.opcode).elim .unrecognized fun m => decodedOf pc (instrOf m f) := by
  by_cases hkey : f.opcode ∈ opcodeKeys
  · simp only [opcodeKeys, List.mem_cons, List.not_mem_nil, or_false] at hkey
    rcases hkey with h | h | h | h | h | h | h | h | h | h <;>
    · rw [decodeByOpcode, h]
      rfl
  · rw [(opcodeTable_eq_none_iff f.opcode).2 hkey]
    simp only [opcodeKeys, List.mem_cons, List.not_mem_nil, or_false, not_or] at hkey
    simp [decodeByOpcode, hkey]

/-- Looking a row up gives `unrecognized` exactly when there is none. -/
theorem rowValue_eq_unrecognized_iff (row : Option Mnemonic) (pc : Word) (f : Fields) :
    (row.elim .unrecognized fun m => decodedOf pc (instrOf m f)) = .unrecognized ↔ row = none := by
  cases row with
  | none => simp
  | some m => simp [decodedOf_ne_unrecognized]

/-- A word is unrecognized exactly when the table its opcode sends it to has no row for it (R84). -/
theorem decode_eq_unrecognized_iff (pc w : Word) :
    decode pc w = .unrecognized ↔
      ((extract w).opcode = 0 ∧ functTable (extract w).funct = none) ∨
      ((extract w).opcode ≠ 0 ∧ opcodeTable (extract w).opcode = none) := by
  by_cases h0 : (extract w).opcode = 0
  · rw [decode, if_pos h0, decodeRType_eq pc, rowValue_eq_unrecognized_iff]
    simp only [h0, ne_eq, not_true_eq_false, true_and, false_and, or_false]
  · rw [decode, if_neg h0, decodeByOpcode_eq, rowValue_eq_unrecognized_iff]
    simp only [h0, ne_eq, not_false_eq_true, true_and, false_and, false_or]

/-- R102's `decode` is the value of the instruction the word stands for, and `unrecognized` where it stands for none. -/
theorem decode_eq (pc w : Word) : decode pc w = (decodeWord w).toOption.elim .unrecognized (decodedOf pc) := by
  rw [decodeWord, selects]
  by_cases h0 : (extract w).opcode = 0
  · rw [decode, if_pos h0, if_pos h0, decodeRType_eq pc]
    cases functTable (extract w).funct <;> rfl
  · rw [decode, if_neg h0, if_neg h0, decodeByOpcode_eq]
    cases opcodeTable (extract w).opcode <;> rfl

/-- The machine's path for a word, `decodeWord` and then `exec`, lists the value of R102's `decode` at the word's pc. -/
theorem runWord_eq_emit_decode (w : Word) (s : State) : runWord w s = emit (decode s.pc w) s := by
  rw [runWord, decode_eq]
  cases decodeWord w with
  | ok i => exact exec_eq_emit i s
  | error r => rfl

/-- The line of a decoded value is its body behind the pc, and the newline (R166, R175). -/
theorem list_eq_printed (d : Decoded) (s : State) : s.list d = printed s (body regName unrecognizedToken d) := by
  simp [State.list, printed, lineOf, format, formatWith]

/-- The step of a state that presents a word prints the body of the word's decoded value. -/
theorem step_prints {s : State} {w : Word} (h : Presents s w) :
    step s = .next (printed s (body regName unrecognizedToken (decode s.pc w))) := by
  rw [step_of_presents h, runWord_eq_emit_decode, emit_next, list_eq_printed]

/-! ### The statements -/

/-- Settles O31: the tables have no row for the word exactly when its key is none of theirs, and the step prints the body of
`unrecognized`, which is the token (R84, R131, R151, R196). -/
theorem unrecognizedWordsListTheToken : Obligations.UnrecognizedWordsListTheToken := by
  intro s w
  refine ⟨?_, fun hd hw => ?_⟩
  · rw [decode_eq_unrecognized_iff, functTable_eq_none_iff, opcodeTable_eq_none_iff]
    rfl
  · rw [step_prints hw, hd]
    rfl

/-- Settles O3: the 32 bits are the fill above the value, so each half is an end of an append; the range is R76's. -/
theorem signExtensionWidensKeepingTheLowBits : Obligations.SignExtensionWidensKeepingTheLowBits := by
  intro v
  have hrange : -32768 ≤ sext32 v ∧ sext32 v ≤ 32767 := of_decide_eq_true (simmOk_sext32 v)
  refine ⟨?_, ?_, asS32_asU32 (by omega) (by omega), rfl, hrange⟩
  · rw [asU32_sext32]
    exact BitVec.extractLsb'_append_eq_right
  · rw [asU32_sext32]
    exact BitVec.extractLsb'_append_eq_left

/-- Settles O2: each field is a quotient and a remainder of the word's value; bit 15 of the word is the sign of `imm` (R75). -/
theorem extractedFieldsAreTheirBits : Obligations.ExtractedFieldsAreTheirBits := by
  intro w
  have hopcode : (extract w).opcode.toNat = w.toNat / 2 ^ 26 := by
    have hw := w.isLt
    rw [extract, toNat_field]
    omega
  have himm : (extract w).imm.toNat = w.toNat % 2 ^ 16 := toNat_lowField w 16
  have hsimm : (extract w).simm = sext32 (extract w).imm := rfl
  refine ⟨hopcode, toNat_field w 21 5, toNat_field w 16 5, toNat_field w 11 5, toNat_field w 6 5, toNat_lowField w 6, himm,
    toNat_lowField w 26, ?_⟩
  have hsign : 32768 ≤ w.toNat % 2 ^ 16 ↔ w.toNat / 2 ^ 15 % 2 = 1 := by omega
  simp only [hsimm, sext32, himm, hsign]

/-- Settles O10: the opcode alone says which table is asked, and that table is asked with its own key (R79, R86). -/
theorem theTwoTablesAreKeptApart : Obligations.TheTwoTablesAreKeptApart := by
  refine ⟨fun w w' h0 hop => ?_, fun w w' h0 h0' hfunct => ?_, rfl, rfl, rfl, rfl, rfl, rfl, rfl, rfl⟩
  · simp only [selects, hop, if_neg h0]
  · simp only [selects, if_pos h0, if_pos h0', hfunct]

end Sys2Proof.Machine
end

section
/-! PROOFS. The targets (40_dispatch.md R104, R105): the branch target as a sum, the jump target as three fields side by side. -/

namespace Sys2Proof.Machine

/-! ### The branch target -/

/-- The branch target's value is the integer sum, reduced (R104). -/
theorem toNat_branchTarget (pc : Word) (simm : Int) :
    ((branchTarget pc simm).toNat : Int) = ((pc.toNat : Int) + 4 + simm * 4) % 2 ^ 32 := by
  rw [branchTarget, BitVec.toNat_ofInt]
  exact Int.toNat_of_nonneg (Int.emod_nonneg _ (by decide))

/-- Reducing mod 2^32 keeps sums and products, so the target is the sum of the reduced terms, for every integer (R104). -/
theorem branchTarget_eq_add_shift (pc : Word) (simm : Int) :
    branchTarget pc simm = pc + 4#32 + (asU32 simm <<< 2) := by
  rw [branchTarget, BitVec.ofInt_add, BitVec.ofInt_add, BitVec.ofInt_mul, BitVec.ofInt_natCast, BitVec.ofNat_toNat,
    BitVec.setWidth_eq, asU32, BitVec.shiftLeft_eq_mul_twoPow]
  rfl

/-- The offset is a multiple of four, so the target is aligned as the pc is (R104). -/
theorem branchTarget_mod_four (pc : Word) (simm : Int) : (branchTarget pc simm).toNat % 4 = pc.toNat % 4 := by
  have h := toNat_branchTarget pc simm
  omega

/-- Settles O11: the target's value is the reduced sum, and the offset is four times a value of R76's range (R104). -/
theorem branchTargetsAreThirtyTwoBitSums : Obligations.BranchTargetsAreThirtyTwoBitSums := by
  refine ⟨toNat_branchTarget, fun pc imm => ?_⟩
  have hrange : -32768 ≤ sext32 imm ∧ sext32 imm ≤ 32767 := of_decide_eq_true (simmOk_sext32 imm)
  exact ⟨branchTarget_eq_add_shift pc _, branchTarget_mod_four pc _, by omega, by omega⟩

/-! ### The jump target -/

/-- The mask keeps the region and clears the 28 bits below it (R105). -/
theorem and_regionMask (v : Word) :
    v &&& 0xF0000000#32 = (v.extractLsb' 28 4 ++ 0#28 : BitVec (4 + 28)) := by
  have hv : v = (v.extractLsb' 28 4 ++ v.extractLsb' 0 28 : BitVec (4 + 28)) :=
    (BitVec.extractLsb'_append_extractLsb' (w := 4) (len := 28) (x := v)).symm
  have hmask : 0xF0000000#32 = (BitVec.allOnes 4 ++ 0#28 : BitVec (4 + 28)) := by decide
  calc
    v &&& 0xF0000000#32
      = (v.extractLsb' 28 4 ++ v.extractLsb' 0 28) &&& (BitVec.allOnes 4 ++ 0#28) := congrArg₂ (· &&& ·) hv hmask
    _ = v.extractLsb' 28 4 ++ 0#28 := by rw [BitVec.and_append, BitVec.and_allOnes, BitVec.and_zero]

/-- The widened and shifted address leaves the region and the low two bits clear (R105). -/
theorem widenedAddr_shiftLeft_two (addr : BitVec 26) :
    addr.setWidth 32 <<< 2 = (0#4 ++ (addr ++ 0#2) : BitVec (4 + 28)) := by
  have haddr := addr.isLt
  apply BitVec.eq_of_toNat_eq
  simp only [BitVec.toNat_shiftLeft, BitVec.toNat_setWidth, BitVec.toNat_append, BitVec.toNat_ofNat, Nat.shiftLeft_eq,
    Nat.zero_mod, Nat.zero_mul, Nat.zero_or, Nat.or_zero]
  omega

/-- The jump target is three fields side by side: the region of pc + 4, the address, and two zero bits (R105). -/
theorem jumpTarget_eq_append (pc : Word) (addr : BitVec 26) :
    jumpTarget pc addr = ((pc + 4#32).extractLsb' 28 4 ++ (addr ++ 0#2) : BitVec (4 + 28)) := by
  rw [jumpTarget, and_regionMask, widenedAddr_shiftLeft_two]
  exact BitVec.append_zero_add_zero_append

/-- The two terms of the sum have no bit in common, so the sum is their bitwise OR (R105). -/
theorem jumpTarget_eq_or (pc : Word) (addr : BitVec 26) :
    jumpTarget pc addr = ((pc + 4#32) &&& 0xF0000000#32) ||| (addr.setWidth 32 <<< 2) := by
  rw [jumpTarget_eq_append, and_regionMask, widenedAddr_shiftLeft_two, BitVec.or_append, BitVec.or_zero, BitVec.zero_or]

/-- Adding 4 carries into the region exactly when the low 28 bits are among the last four values (R105). -/
theorem region_add_four_ne_iff (pc : Word) :
    (pc + 4#32).extractLsb' 28 4 ≠ pc.extractLsb' 28 4 ↔ 0xFFFFFFC ≤ pc.toNat % 2 ^ 28 := by
  have hpc := pc.isLt
  rw [ne_eq, ← BitVec.toNat_inj, toNat_field, toNat_field, BitVec.toNat_add, BitVec.toNat_ofNat]
  omega

/-- Settles O12: the target is its three fields side by side, so each clause reads off one field (R105). -/
theorem jumpTargetsJoinRegionAndAddress : Obligations.JumpTargetsJoinRegionAndAddress := by
  intro pc addr
  refine ⟨?_, ?_, ?_, jumpTarget_eq_or pc addr, region_add_four_ne_iff pc⟩ <;> rw [jumpTarget_eq_append]
  · exact BitVec.extractLsb'_append_eq_left
  · exact (BitVec.extractLsb'_append_eq_of_add_le (by decide)).trans BitVec.extractLsb'_append_eq_left
  · exact (BitVec.extractLsb'_append_eq_of_add_le (by decide)).trans BitVec.extractLsb'_append_eq_right

end Sys2Proof.Machine
end

section
/-! PROOFS. The R-type instructions (41_rtype.md): what the match and mask of a row say about a word, the line of an instruction by
how many operands it has, and the statements on the eleven rows of R80. -/

namespace Sys2Proof.Machine

/-! ### The row of a word -/

/-- A field that lies under the ones of a mask is read off the masked word. -/
theorem field_eq_of_masked {w mask v : Word} {low width : Nat} (h : w &&& mask = v)
    (hmask : mask.extractLsb' low width = BitVec.allOnes width) : w.extractLsb' low width = v.extractLsb' low width := by
  rw [← h, BitVec.extractLsb'_and, hmask, BitVec.and_allOnes]

/-- Every row's mask covers the opcode (R80, R81). -/
theorem rowMask_covers_opcode (m : Mnemonic) : (rowMask m).extractLsb' 26 6 = BitVec.allOnes 6 := by
  cases m <;> rfl

/-- The mask of a row with opcode 0x00 covers the funct too (R80). -/
theorem rowMask_covers_funct (m : Mnemonic) (h0 : (extract (rowMatch m)).opcode = 0) :
    (rowMask m).extractLsb' 0 6 = BitVec.allOnes 6 := by
  revert h0
  cases m <;> decide

/-- The word of a row's match column is one of its own row. -/
theorem selects_rowMatch (m : Mnemonic) : selects (extract (rowMatch m)) = .ok m := by
  cases m <;> rfl

/-- A word of a row selects the row's mnemonic, whatever its other bits: it has the opcode of the match column, and its funct where
the opcode is 0x00 (R79, R86). -/
theorem selects_of_row {w : Word} {m : Mnemonic} (h : w &&& rowMask m = rowMatch m) : selects (extract w) = .ok m := by
  obtain ⟨sameOpcode, sameFunct, -⟩ := theTwoTablesAreKeptApart
  have hopcode : (extract w).opcode = (extract (rowMatch m)).opcode := field_eq_of_masked h (rowMask_covers_opcode m)
  refine Eq.trans ?_ (selects_rowMatch m)
  by_cases h0 : (extract (rowMatch m)).opcode = 0
  · exact sameFunct _ _ h0 (hopcode.trans h0) (field_eq_of_masked h (rowMask_covers_funct m h0))
  · exact sameOpcode _ _ h0 hopcode

/-- A word of a row stands for the row's instruction, with the operands of its bits (R77). -/
theorem decodeWord_of_row {w : Word} {m : Mnemonic} (h : w &&& rowMask m = rowMatch m) :
    decodeWord w = .ok (instrOf m (extract w)) := by
  rw [decodeWord, selects_of_row h]

/-- A presented word of a row has the value of the row's instruction, and the step is that instruction's meaning. -/
theorem decode_and_step_of_row {s : State} {w : Word} {m : Mnemonic} (hw : Presents s w) (h : w &&& rowMask m = rowMatch m) :
    decode s.pc w = decodedOf s.pc (instrOf m (extract w)) ∧ step s = exec (instrOf m (extract w)) s := by
  constructor
  · rw [decode_eq, decodeWord_of_row h]
    rfl
  · rw [step_of_presents hw, runWord, decodeWord_of_row h]

/-! ### The line of an instruction -/

/-- An instruction prints the body of its value. -/
theorem exec_prints (i : Instr) (s : State) :
    exec i s = .next (printed s (body regName unrecognizedToken (decodedOf s.pc i))) := by
  rw [exec_eq_emit, emit_next, list_eq_printed]

section
variable {i : Instr} {s : State} {m : Mnemonic} {name a b c : Text} (hname : name = mnemonicText m ++ " ".toList)
include hname

/-- The line of an instruction with one operand (R167). -/
theorem exec_prints_one_operand (hbody : body regName unrecognizedToken (decodedOf s.pc i) = withOperands m [a]) :
    exec i s = .next (printed s (name ++ a)) := by
  rw [exec_prints, hbody, hname, withOperands, commaSep]

/-- The line of an instruction with two operands (R167). -/
theorem exec_prints_two_operands (hbody : body regName unrecognizedToken (decodedOf s.pc i) = withOperands m [a, b]) :
    exec i s = .next (printed s (name ++ a ++ ", ".toList ++ b)) := by
  rw [exec_prints, hbody, hname]
  simp only [withOperands, commaSep, List.append_assoc]

/-- The line of an instruction with three operands (R167). -/
theorem exec_prints_three_operands (hbody : body regName unrecognizedToken (decodedOf s.pc i) = withOperands m [a, b, c]) :
    exec i s = .next (printed s (name ++ a ++ ", ".toList ++ b ++ ", ".toList ++ c)) := by
  rw [exec_prints, hbody, hname]
  simp only [withOperands, commaSep, List.append_assoc]

end

/-! ### The statements -/

/-- Settles O20: the line has the operands rd, rs and shamt, and the rows of `sll` and `sra` fix the opcode and the funct (R120,
R121). -/
theorem shiftsListRdRsShamt : Obligations.ShiftsListRdRsShamt :=
  ⟨fun _ _ _ _ => ⟨exec_prints_three_operands rfl rfl, exec_prints_three_operands rfl rfl⟩,
    fun _ _ hw => ⟨decode_and_step_of_row (m := .sll) hw, decode_and_step_of_row (m := .sra) hw⟩⟩

/-- Settles O21: the line has the operand rs, and the row of `jr` fixes the opcode and the funct (R122). -/
theorem jrListsRs : Obligations.JrListsRs :=
  ⟨fun _ _ => exec_prints_one_operand rfl rfl, fun _ _ hw => decode_and_step_of_row (m := .jr) hw⟩

/-- Settles O22: the line has the operand rd, and the rows of `mfhi` and `mflo` fix the opcode and the funct (R123, R124). -/
theorem movesFromHiLoListRd : Obligations.MovesFromHiLoListRd :=
  ⟨fun _ _ => ⟨exec_prints_one_operand rfl rfl, exec_prints_one_operand rfl rfl⟩,
    fun _ _ hw => ⟨decode_and_step_of_row (m := .mfhi) hw, decode_and_step_of_row (m := .mflo) hw⟩⟩

/-- Settles O23: the line has the operands rd and rt, and the rows of `mult` and `div` fix the opcode and the funct (R125, R126). -/
theorem multAndDivListRdRt : Obligations.MultAndDivListRdRt :=
  ⟨fun _ _ _ => ⟨exec_prints_two_operands rfl rfl, exec_prints_two_operands rfl rfl⟩,
    fun _ _ hw => ⟨decode_and_step_of_row (m := .mult) hw, decode_and_step_of_row (m := .div) hw⟩⟩

/-- Settles O24: the line has the operands rd, rs and rt, and the rows of `addu`, `sub`, `subu` and `slt` fix the opcode and the
funct (R127 to R130). -/
theorem triadsListRdRsRt : Obligations.TriadsListRdRsRt :=
  ⟨fun _ _ _ _ => ⟨exec_prints_three_operands rfl rfl, exec_prints_three_operands rfl rfl,
      exec_prints_three_operands rfl rfl, exec_prints_three_operands rfl rfl⟩,
    fun _ _ hw => ⟨decode_and_step_of_row (m := .addu) hw, decode_and_step_of_row (m := .sub) hw,
      decode_and_step_of_row (m := .subu) hw, decode_and_step_of_row (m := .slt) hw⟩⟩

end Sys2Proof.Machine
end

section
/-! PROOFS. The immediate, trap and memory-form instructions (42_itype_jtype.md): the line of a memory-form instruction, and the
statements on the rows of R81 that read no pc. -/

namespace Sys2Proof.Machine

/-! ### The line of a memory-form instruction -/

/-- The line of an instruction whose second operand is a displacement from a base register (R148, R172). -/
theorem exec_prints_offset_base {i : Instr} {s : State} {m : Mnemonic} {name a : Text} {simm : Int} {base : Spec5}
    (hname : name = mnemonicText m ++ " ".toList)
    (hbody : body regName unrecognizedToken (decodedOf s.pc i) = withOperands m [a, memoryText regName simm base]) :
    exec i s = .next (printed s (name ++ a ++ ", ".toList ++ dec simm ++ "(".toList ++ regName base ++ ")".toList)) := by
  rw [exec_prints_two_operands hname hbody]
  simp only [memoryText, List.append_assoc]

/-! ### The statements -/

/-- Settles O27: the line has the operands rt, rs and the signed immediate, and the rows of `addiu` and `andi` fix the opcode
(R144, R145). -/
theorem registerImmediatesListRtRsSimm : Obligations.RegisterImmediatesListRtRsSimm :=
  ⟨fun _ _ _ _ => ⟨exec_prints_three_operands rfl rfl, exec_prints_three_operands rfl rfl⟩,
    fun _ _ hw => ⟨decode_and_step_of_row (m := .addiu) hw, decode_and_step_of_row (m := .andi) hw⟩⟩

/-- Settles O28: the line has the operands rt and the signed immediate, and the row of `lui` fixes the opcode (R146). -/
theorem luiListsRtSimm : Obligations.LuiListsRtSimm :=
  ⟨fun _ _ _ => exec_prints_two_operands rfl rfl, fun _ _ hw => decode_and_step_of_row (m := .lui) hw⟩

/-- Settles O29: the line has the raw address field as its one operand, and the row of `trap` fixes the opcode (R147). -/
theorem trapListsItsRawAddress : Obligations.TrapListsItsRawAddress :=
  ⟨fun _ _ => exec_prints_one_operand rfl rfl, fun _ _ hw => decode_and_step_of_row (m := .trap) hw⟩

/-- Settles O30: the line has the operands rt and offset(base), and the rows of `lw` and `sw` fix the opcode (R149, R150). -/
theorem loadsAndStoresListRtAndOffsetBase : Obligations.LoadsAndStoresListRtAndOffsetBase :=
  ⟨fun _ _ _ _ => ⟨exec_prints_offset_base rfl rfl, exec_prints_offset_base rfl rfl⟩,
    fun _ _ hw => ⟨decode_and_step_of_row (m := .lw) hw, decode_and_step_of_row (m := .sw) hw⟩⟩

end Sys2Proof.Machine
end

section
/-! PROOFS. The formatter (45_formatter.md R160 to R172): what a text of digits reads back as, which characters a line is made of,
and the statements on `hex8`, the body of each shape and the characters of a line. -/

namespace Sys2Proof.Machine

/-! ### Digits read back -/

/-- A digit character reads back as its digit (R162). -/
theorem digitValue_digitChar {d : Nat} (hd : d < 16) : digitValue (digitChar d) = some d := by
  revert d
  decide

/-- Reading a digit of the base appends it to the value read so far. -/
theorem valueFrom_digitChar_cons {base d : Nat} (hbase : base ≤ 16) (hd : d < base) (a : Nat) (t : Text) :
    valueFrom base a (digitChar d :: t) = valueFrom base (base * a + d) t := by
  rw [valueFrom, digitValue_digitChar (hd.trans_le hbase)]
  exact if_pos hd

/-- The low `k` hexadecimal digits of `n`, most significant first, complete what stands above them to `n`. -/
theorem valueFrom_low_digits (n k : Nat) :
    valueFrom 16 (n / 16 ^ k) ((List.range k).reverse.map fun i => digitChar (n / 16 ^ i % 16)) = some n := by
  induction k with
  | zero => simp [valueFrom]
  | succ k ih =>
    have hdigit : n / 16 ^ k % 16 < 16 := Nat.mod_lt _ (by decide)
    have hjoin : 16 * (n / 16 ^ (k + 1)) + n / 16 ^ k % 16 = n / 16 ^ k := by
      rw [Nat.pow_succ, ← Nat.div_div_eq_div_mul, Nat.div_add_mod]
    rw [List.range_succ, List.reverse_concat, List.map_cons, valueFrom_digitChar_cons (le_refl 16) hdigit, hjoin, ih]

/-- Settles O13: a 32-bit value has nothing above its eight low digits, and these read back as it (R162). -/
theorem hexEightIsEightDigitsOfTheValue : Obligations.HexEightIsEightDigitsOfTheValue := by
  intro v
  have hlen : (hex8 v).length = 8 := rfl
  have hnonempty : hex8 v ≠ [] := List.ne_nil_of_length_pos (by omega)
  have htop : v.toNat / 16 ^ 8 = 0 := Nat.div_eq_of_lt v.isLt
  refine ⟨hlen, ?_⟩
  rw [textValue, if_neg hnonempty, ← htop]
  exact valueFrom_low_digits v.toNat 8

/-! ### The body of each shape -/

/-- One operand behind the mnemonic and a space (R167). -/
theorem withOperands_one (m : Mnemonic) (a : Text) : withOperands m [a] = mnemonicText m ++ " ".toList ++ a := rfl

/-- Two operands behind the mnemonic and a space (R167). -/
theorem withOperands_two (m : Mnemonic) (a b : Text) :
    withOperands m [a, b] = mnemonicText m ++ " ".toList ++ a ++ ", ".toList ++ b := by
  simp only [withOperands, commaSep, List.append_assoc]

/-- Three operands behind the mnemonic and a space (R167). -/
theorem withOperands_three (m : Mnemonic) (a b c : Text) :
    withOperands m [a, b, c] = mnemonicText m ++ " ".toList ++ a ++ ", ".toList ++ b ++ ", ".toList ++ c := by
  simp only [withOperands, commaSep, List.append_assoc]

/-- An operand and a displacement from a base register behind the mnemonic and a space (R167, R171). -/
theorem withOperands_memoryText (R : Spec5 → Text) (m : Mnemonic) (a : Text) (simm : Int) (rs : Spec5) :
    withOperands m [a, memoryText R simm rs] =
      mnemonicText m ++ " ".toList ++ a ++ ", ".toList ++ dec simm ++ "(".toList ++ R rs ++ ")".toList := by
  rw [withOperands_two]
  simp only [memoryText, List.append_assoc]

/-- Settles O19: each body is the line of its one, two or three operands (R166, R167, R170, R172). -/
theorem linesFollowTheBodyOfEachShape : Obligations.LinesFollowTheBodyOfEachShape := fun R _ _ =>
  ⟨fun _ => rfl,
    fun _ _ _ _ => withOperands_three ..,
    fun _ _ _ _ => withOperands_three ..,
    fun _ _ => withOperands_one ..,
    fun _ _ _ => withOperands_two ..,
    fun _ _ _ _ => withOperands_three ..,
    fun _ _ _ => withOperands_two ..,
    fun _ _ _ _ => withOperands_memoryText R ..,
    fun _ _ => withOperands_one ..,
    fun _ _ _ _ => withOperands_three ..,
    fun _ _ => withOperands_one ..,
    rfl⟩

/-! ### The characters of a line -/

/-- The characters R165 lists, its letters in lower case only. -/
def lineAlphabet : Text := "0123456789abcdefghijklmnopqrstuvwxyz$-:, ()".toList

/-- The characters of R165's list are ASCII. -/
theorem lineAlphabet_ascii : ∀ c ∈ lineAlphabet, c.toNat < 128 := by
  have hcodes : ∀ n ∈ lineAlphabet.map Char.toNat, n < 128 := by decide
  exact List.forall_mem_map.1 hcodes

/-- Every character of a text is one of R165's list or stands in the name table. -/
def SpelledWith (R : Spec5 → Text) (t : Text) : Prop := ∀ c ∈ t, c ∈ lineAlphabet ∨ ∃ i, c ∈ R i

section
variable {R : Spec5 → Text}

/-- A text over R165's list needs no name table. -/
theorem SpelledWith.of_subset {t : Text} (h : t ⊆ lineAlphabet) : SpelledWith R t := fun _ hc => .inl (h hc)

theorem SpelledWith.append {t u : Text} (ht : SpelledWith R t) (hu : SpelledWith R u) : SpelledWith R (t ++ u) :=
  fun c hc => (List.mem_append.1 hc).elim (ht c) (hu c)

/-- A register's name stands in the name table. -/
theorem spelledWith_name (i : Spec5) : SpelledWith R (R i) := fun _ hc => .inr ⟨i, hc⟩

/-- A digit is one of R165's list. -/
theorem digitChar_mem_lineAlphabet {d : Nat} (hd : d < 16) : digitChar d ∈ lineAlphabet := by
  revert d
  decide

/-- The digits of a number in a base up to 16 are of R165's list. -/
theorem digits_subset {base : Nat} (hpos : 0 < base) (hbase : base ≤ 16) (fuel n : Nat) :
    digits base fuel n ⊆ lineAlphabet := by
  have hdigit {d : Nat} (hd : d < base) : [digitChar d] ⊆ lineAlphabet :=
    List.cons_subset.2 ⟨digitChar_mem_lineAlphabet (hd.trans_le hbase), List.nil_subset _⟩
  induction fuel generalizing n with
  | zero => exact List.nil_subset _
  | succ fuel ih =>
    rw [digits]
    split
    case isTrue hlt => exact hdigit hlt
    case isFalse => exact List.append_subset.2 ⟨ih _, hdigit (Nat.mod_lt _ hpos)⟩

theorem spelledWith_hex8 (v : Word) : SpelledWith R (hex8 v) :=
  .of_subset (List.forall_mem_map.2 fun _ _ => digitChar_mem_lineAlphabet (Nat.mod_lt _ (by decide)))

theorem spelledWith_hex (n : Nat) : SpelledWith R (hex n) := .of_subset (digits_subset (by decide) (by decide) _ _)

theorem spelledWith_dec (v : Int) : SpelledWith R (dec v) := by
  have hnat : natText 10 v.natAbs ⊆ lineAlphabet := digits_subset (by decide) (by decide) _ _
  rw [dec]
  split
  case isTrue => exact .of_subset (List.cons_subset.2 ⟨by decide, hnat⟩)
  case isFalse => exact .of_subset hnat

theorem spelledWith_mnemonicText (m : Mnemonic) : SpelledWith R (mnemonicText m) := by
  refine .of_subset ?_
  cases m <;> decide

theorem spelledWith_memoryText (simm : Int) (rs : Spec5) : SpelledWith R (memoryText R simm rs) :=
  (((spelledWith_dec simm).append (.of_subset (by decide))).append (spelledWith_name rs)).append (.of_subset (by decide))

/-- Between operands stand a comma and a space (R167). -/
theorem spelledWith_commaSep {ts : List Text} (h : ∀ t ∈ ts, SpelledWith R t) : SpelledWith R (commaSep ts) := by
  induction ts with
  | nil => exact .of_subset (List.nil_subset _)
  | cons t ts ih =>
    obtain ⟨ht, hts⟩ := List.forall_mem_cons.1 h
    cases ts with
    | nil => exact ht
    | cons u us => exact (ht.append (.of_subset (by decide))).append (ih hts)

theorem spelledWith_withOperands (m : Mnemonic) {ts : List Text} (h : ∀ t ∈ ts, SpelledWith R t) :
    SpelledWith R (withOperands m ts) :=
  ((spelledWith_mnemonicText m).append (.of_subset (by decide))).append (spelledWith_commaSep h)

/-- The body of a shape is spelled with R165's list and the name table; the body of an unrecognized word is the token. -/
theorem spelledWith_body_or_eq_token (token : Text) (d : Decoded) :
    SpelledWith R (body R token d) ∨ body R token d = token := by
  cases d with
  | unrecognized => exact .inr rfl
  | _ =>
    refine .inl (spelledWith_withOperands _ ?_)
    simp only [List.forall_mem_cons, List.not_mem_nil, false_imp_iff, implies_true, and_true, spelledWith_name, spelledWith_dec,
      spelledWith_hex, spelledWith_memoryText]

end

/-- Settles O17: the pc and the separator are over R165's list, and so is the body but for names and the token. -/
theorem formattedTextIsAscii : Obligations.FormattedTextIsAscii := by
  intro R token pc d c hc
  have hhead : SpelledWith R (hex8 pc ++ ": ".toList) := (spelledWith_hex8 pc).append (.of_subset (by decide))
  have hlisted {t : Text} (ht : SpelledWith R t) (hct : c ∈ t) :
      (c ∈ lineAlphabet ∧ c.toNat < 128) ∨ (∃ i, c ∈ R i) ∨ c ∈ token :=
    (ht c hct).imp (fun h => ⟨h, lineAlphabet_ascii c h⟩) .inl
  rcases List.mem_append.1 hc with hc | hc
  · exact hlisted hhead hc
  · rcases spelledWith_body_or_eq_token token d with hbody | hbody
    · exact hlisted hbody hc
    · exact .inr (.inr (hbody ▸ hc))

/-! ### No newline -/

/-- Taking the newlines out of a text leaves none (log entries 7 and 8). -/
theorem newline_not_mem_filter (t : Text) : '\n' ∉ t.filter (· != '\n') := by
  simp

/-- No register name holds a newline: the six fixed ones by R161, the others by log entry 7. -/
theorem newline_not_mem_regName (i : Spec5) : '\n' ∉ regName i := by
  have hfixed : ∀ i : Spec5, ∀ name ∈ fixedRegName i, '\n' ∉ name := by decide
  rw [regName]
  split
  next name h => exact hfixed i name h
  next => exact newline_not_mem_filter _

/-- Settles O16: a newline is none of the characters of O17, and the machine's names and token hold none (R160, R175). -/
theorem formattedLinesHoldNoNewline : Obligations.FormattedLinesHoldNoNewline := by
  intro pc d
  refine ⟨fun hmem => ?_, rfl⟩
  rcases formattedTextIsAscii regName unrecognizedToken pc d '\n' hmem with ⟨hlisted, -⟩ | ⟨i, hname⟩ | htoken
  · exact absurd hlisted (by decide)
  · exact newline_not_mem_regName i hname
  · exact newline_not_mem_filter _ htoken

end Sys2Proof.Machine
end

section
/-! PROOFS. Exceptions (60_exceptions.md R197): an instruction's whole effect is to list one decoded value, which raises nothing. -/

namespace Sys2Proof.Machine

/-- Settles O35: every instruction lists a decoded value (`exec_emits`), and listing keeps the error, the phase and the error record
(R197). -/
theorem noInstructionRaisesAnException : Obligations.NoInstructionRaisesAnException := by
  intro i s
  obtain ⟨d, -, hexec⟩ := exec_emits i s
  exact ⟨s.list d, hexec, State.list_err d s, State.list_phase d s, State.list_info d s⟩

end Sys2Proof.Machine
end

section
/-! PROOFS. Decode and encode (30_encoding.md, 40_dispatch.md): the operands of an encoded word, a word without its don't-care bits,
the word exactly of a row, the bytes of a word, and the statements on them. -/

namespace Sys2Proof

/-! ### From the instruction to its word and back -/

/-- An instruction's word selects the instruction's mnemonic (R79). -/
theorem selects_encode : ∀ i : Instr, selects (extract (encode i)) = .ok i.mnemonic
  | .sll .. => Laws.Selected.sll ..
  | .sra .. => Laws.Selected.sra ..
  | .jr .. => Laws.Selected.jr ..
  | .mfhi .. => Laws.Selected.mfhi ..
  | .mflo .. => Laws.Selected.mflo ..
  | .mult .. => Laws.Selected.mult ..
  | .div .. => Laws.Selected.div ..
  | .addu .. => Laws.Selected.addu ..
  | .sub .. => Laws.Selected.sub ..
  | .subu .. => Laws.Selected.subu ..
  | .slt .. => Laws.Selected.slt ..
  | .j .. => Laws.Selected.j ..
  | .jal .. => Laws.Selected.jal ..
  | .beq .. => Laws.Selected.beq ..
  | .bne .. => Laws.Selected.bne ..
  | .addiu .. => Laws.Selected.addiu ..
  | .andi .. => Laws.Selected.andi ..
  | .lui .. => Laws.Selected.lui ..
  | .trap .. => Laws.Selected.trap ..
  | .lw .. => Laws.Selected.lw ..
  | .sw .. => Laws.Selected.sw ..

/-- An immediate in range comes back from the I-type word that holds it (R72, R76). -/
theorem extract_iWord_simm (opcode : BitVec 6) (rs rt : Spec5) {simm : Int} (h : simmOk simm = true) :
    (extract (iWord opcode rs rt simm)).simm = simm := by
  obtain ⟨-, -, -, himm⟩ := extract_iWord opcode rs rt simm
  rw [show (extract (iWord opcode rs rt simm)).simm = sext32 (extract (iWord opcode rs rt simm)).imm from rfl, himm,
    sext32_ofInt h]

/-- The operands of a well-formed instruction come back from the fields of its word (R77). -/
theorem instrOf_extract_encode {i : Instr} (h : i.wf = true) : instrOf i.mnemonic (extract (encode i)) = i := by
  cases i
  case beq | bne | addiu | andi | lui | lw | sw =>
    simp only [Instr.mnemonic, encode, instrOf, extract_iWord, extract_iWord_simm _ _ _ h]
  all_goals simp only [Instr.mnemonic, encode, instrOf, extract_rWord, extract_jWord]

/-- Decoding inverts encoding on well-formed instructions. -/
theorem decodeWord_encode {i : Instr} (h : i.wf = true) : decodeWord (encode i) = .ok i := by
  rw [decodeWord, selects_encode]
  exact congrArg _ (instrOf_extract_encode h)

/-- A word that decodes gives the instruction of the mnemonic it selects. -/
theorem decodeWord_eq_ok_iff (w : Word) (i : Instr) :
    decodeWord w = .ok i ↔ ∃ m, selects (extract w) = .ok m ∧ instrOf m (extract w) = i := by
  rw [decodeWord]
  cases selects (extract w) <;> simp

/-- An instruction made for a mnemonic is of that mnemonic. -/
theorem mnemonic_instrOf (m : Mnemonic) (f : Fields) : (instrOf m f).mnemonic = m := by
  cases m <;> rfl

/-- The operands a word gives are well formed: an immediate comes from 16 bits (R76). -/
theorem instrOf_extract_wf (m : Mnemonic) (w : Word) : (instrOf m (extract w)).wf = true := by
  cases m
  case beq | bne | addiu | andi | lui | lw | sw => exact simmOk_sext32 _
  all_goals rfl

/-! ### A word without its don't-care bits -/

/-- The bits of a word under a mask are the bits of its R-type fields under the mask's (R71). -/
theorem and_eq_rFields (w u : Word) :
    w &&& u = ((extract w).opcode &&& (extract u).opcode) ++ ((extract w).rs &&& (extract u).rs) ++
      ((extract w).rt &&& (extract u).rt) ++ ((extract w).rd &&& (extract u).rd) ++
      ((extract w).shamt &&& (extract u).shamt) ++ ((extract w).funct &&& (extract u).funct) := by
  simp only [extract, ← BitVec.extractLsb'_and, BitVec.extractLsb'_append_extractLsb'_eq_extractLsb', BitVec.extractLsb'_eq_self]

/-- The bits of a word under a mask are the bits of its I-type fields under the mask's (R72). -/
theorem and_eq_iFields (w u : Word) :
    w &&& u = ((extract w).opcode &&& (extract u).opcode) ++ ((extract w).rs &&& (extract u).rs) ++
      ((extract w).rt &&& (extract u).rt) ++ ((extract w).imm &&& (extract u).imm) := by
  simp only [extract, ← BitVec.extractLsb'_and, BitVec.extractLsb'_append_extractLsb'_eq_extractLsb', BitVec.extractLsb'_eq_self]

section
variable {w u : Word}

/-- A word with opcode 0x00 under a mask is the R-type word of its masked fields. -/
theorem rWord_eq_and {rs rt rd shamt : Spec5} {funct : BitVec 6} (hopcode : (extract w).opcode = 0#6)
    (hrs : (extract w).rs &&& (extract u).rs = rs) (hrt : (extract w).rt &&& (extract u).rt = rt)
    (hrd : (extract w).rd &&& (extract u).rd = rd) (hshamt : (extract w).shamt &&& (extract u).shamt = shamt)
    (hfunct : (extract w).funct &&& (extract u).funct = funct) : rWord rs rt rd shamt funct = w &&& u := by
  rw [and_eq_rFields, hopcode, hrs, hrt, hrd, hshamt, hfunct, BitVec.zero_and]
  rfl

/-- A word under a mask that keeps the opcode and the immediate is the I-type word of its masked fields. -/
theorem iWord_eq_and {opcode : BitVec 6} {rs rt : Spec5} (hopcode : (extract w).opcode &&& (extract u).opcode = opcode)
    (hrs : (extract w).rs &&& (extract u).rs = rs) (hrt : (extract w).rt &&& (extract u).rt = rt)
    (himm : (extract w).imm &&& (extract u).imm = (extract w).imm) :
    iWord opcode rs rt (extract w).simm = w &&& u := by
  rw [and_eq_iFields, hopcode, hrs, hrt, himm, ← ofInt_sext32 (extract w).imm]
  rfl

/-- A word is the J-type word of its fields (R73). -/
theorem jWord_eq_and {opcode : BitVec 6} (hopcode : (extract w).opcode = opcode) :
    jWord opcode (extract w).addr = w &&& BitVec.allOnes 32 := by
  rw [BitVec.and_allOnes, ← hopcode]
  exact BitVec.extractLsb'_append_extractLsb' (w := 6) (len := 26)

end

/-! ### The word exactly of a row -/

/-- A funct of R80's table is the funct of its row, whose opcode is 0x00. -/
theorem keys_of_functTable : ∀ funct, ∀ m ∈ functTable funct,
    (extract (rowMatch m)).opcode = 0 ∧ funct = (extract (rowMatch m)).funct := by
  decide

/-- An opcode of R81's table is the opcode of its row, and not 0x00. -/
theorem keys_of_opcodeTable : ∀ opcode, ∀ m ∈ opcodeTable opcode,
    opcode = (extract (rowMatch m)).opcode ∧ (extract (rowMatch m)).opcode ≠ 0 := by
  decide

/-- Fields that select a row have its opcode, and its funct where the opcode is 0x00 (R79). -/
theorem keys_of_selects {f : Fields} {m : Mnemonic} (h : selects f = .ok m) :
    f.opcode = (extract (rowMatch m)).opcode ∧
    ((extract (rowMatch m)).opcode = 0 → f.funct = (extract (rowMatch m)).funct) := by
  rw [selects] at h
  split at h
  case isTrue h0 =>
    cases hrow : functTable f.funct with
    | none => simp [hrow] at h
    | some m' =>
      obtain rfl : m' = m := by simpa [hrow] using h
      obtain ⟨hopcode, hfunct⟩ := keys_of_functTable _ _ hrow
      exact ⟨h0.trans hopcode.symm, fun _ => hfunct⟩
  case isFalse =>
    cases hrow : opcodeTable f.opcode with
    | none => simp [hrow] at h
    | some m' =>
      obtain rfl : m' = m := by simpa [hrow] using h
      obtain ⟨hopcode, hne⟩ := keys_of_opcodeTable _ _ hrow
      exact ⟨hopcode, fun h0 => absurd h0 hne⟩

/-- A row's mask keeps the opcode, and of the other bits the funct at most (R80, R81). -/
theorem and_rowMask (w : Word) (m : Mnemonic) :
    w &&& rowMask m = (extract w).opcode ++ 0#20 ++ ((extract w).funct &&& (extract (rowMask m)).funct) := by
  have hmask : rowMask m = BitVec.allOnes 6 ++ 0#20 ++ (extract (rowMask m)).funct := by cases m <;> rfl
  have hw : w = ((extract w).opcode ++ w.extractLsb' 6 20 ++ (extract w).funct : BitVec (6 + 20 + 6)) := by
    simp only [extract, BitVec.extractLsb'_append_extractLsb'_eq_extractLsb', BitVec.extractLsb'_eq_self]
  calc
    w &&& rowMask m = _ := congrArg₂ (· &&& ·) hw hmask
    _ = _ := by rw [BitVec.and_append, BitVec.and_append, BitVec.and_allOnes, BitVec.and_zero]

/-- A row whose opcode is not 0x00 does not look at the funct (R81). -/
theorem funct_rowMask_eq_zero {m : Mnemonic} : (extract (rowMatch m)).opcode ≠ 0 → (extract (rowMask m)).funct = 0#6 := by
  cases m <;> decide

/-- A row's match lies under its mask. -/
theorem rowMatch_and_rowMask (m : Mnemonic) : rowMatch m &&& rowMask m = rowMatch m := by
  cases m <;> rfl

/-- A word selects a row's mnemonic exactly when it matches the row under its mask (R80, R81). -/
theorem selects_eq_ok_iff (w : Word) (m : Mnemonic) :
    selects (extract w) = .ok m ↔ w &&& rowMask m = rowMatch m := by
  refine ⟨fun h => ?_, Machine.selects_of_row⟩
  obtain ⟨hopcode, hfunct⟩ := keys_of_selects h
  rw [← rowMatch_and_rowMask, and_rowMask, and_rowMask, hopcode]
  by_cases h0 : (extract (rowMatch m)).opcode = 0
  · rw [hfunct h0]
  · rw [funct_rowMask_eq_zero h0, BitVec.and_zero, BitVec.and_zero]

/-- The word of the instruction that a word's fields give for the row they select is the word without its don't-care bits (R85). -/
theorem encode_instrOf_extract {w : Word} {m : Mnemonic} (h : selects (extract w) = .ok m) :
    encode (instrOf m (extract w)) = w &&& usedBits m := by
  obtain ⟨hopcode, hfunct⟩ := keys_of_selects h
  have kept {n} (x : BitVec n) : x &&& BitVec.allOnes n = x := BitVec.and_allOnes
  have cleared {n} (x : BitVec n) : x &&& 0#n = 0#n := BitVec.and_zero
  cases m
  case sll | sra => exact rWord_eq_and hopcode (kept _) (cleared _) (kept _) (kept _) ((kept _).trans (hfunct rfl))
  case jr => exact rWord_eq_and hopcode (kept _) (cleared _) (cleared _) (cleared _) ((kept _).trans (hfunct rfl))
  case mfhi | mflo => exact rWord_eq_and hopcode (cleared _) (cleared _) (kept _) (cleared _) ((kept _).trans (hfunct rfl))
  case mult | div => exact rWord_eq_and hopcode (cleared _) (kept _) (kept _) (cleared _) ((kept _).trans (hfunct rfl))
  case addu | sub | subu | slt =>
    exact rWord_eq_and hopcode (kept _) (kept _) (kept _) (cleared _) ((kept _).trans (hfunct rfl))
  case j | jal | trap => exact jWord_eq_and hopcode
  case lui => exact iWord_eq_and ((kept _).trans hopcode) (cleared _) (kept _) (kept _)
  case beq | bne | addiu | andi | lw | sw => exact iWord_eq_and ((kept _).trans hopcode) (kept _) (kept _) (kept _)

/-! ### Bytes -/

/-- The four bytes of a word decode as the word, whatever follows them (R41). -/
theorem decodeBytes_beBytes (w : Word) (rest : List Byte) :
    decodeBytes (beBytes w ++ rest) = (decodeWord w).map (·, rest) := by
  simp only [beBytes, List.cons_append, List.nil_append, decodeBytes, beWord_of_bytes]
  cases decodeWord w <;> rfl

/-- The host's question about a table word is the word's decoding. -/
theorem decodeTableWord_eq (nbits w : Nat) : decodeTableWord nbits w = (decodeWord (BitVec.ofNat 32 w)).toOption := by
  rw [decodeTableWord, ← List.append_nil (beBytes _), decodeBytes_beBytes]
  cases decodeWord (BitVec.ofNat 32 w) <;> rfl

/-! ### The statements -/

/-- Settles O4: an instruction's word selects its row and gives its operands back, and four bytes decode as their word. -/
theorem encodedInstructionsDecodeBack : Obligations.EncodedInstructionsDecodeBack := by
  intro i hi
  refine ⟨decodeWord_encode hi, fun rest => ?_⟩
  rw [decodeBytes_beBytes, decodeWord_encode hi]
  rfl

/-- Settles O5: a word that decodes selects a row, and the instruction of its operands has its word but for the row's don't-care
bits. -/
theorem decodingLosesOnlyDontCareBits : Obligations.DecodingLosesOnlyDontCareBits := by
  intro w i hi
  obtain ⟨m, hm, rfl⟩ := (decodeWord_eq_ok_iff w i).1 hi
  refine ⟨instrOf_extract_wf m w, ?_⟩
  rw [mnemonic_instrOf, encode_instrOf_extract hm]

/-- Settles O6: a word matches a row exactly when it selects the row's mnemonic, which is the mnemonic of what it decodes to. -/
theorem wordsDecodeToTheRowTheyMatch : Obligations.WordsDecodeToTheRowTheyMatch := by
  intro w m
  rw [← selects_eq_ok_iff]
  constructor
  · intro h
    exact ⟨_, (decodeWord_eq_ok_iff w _).2 ⟨m, h, rfl⟩, mnemonic_instrOf m _⟩
  · rintro ⟨i, hi, rfl⟩
    obtain ⟨m, hm, rfl⟩ := (decodeWord_eq_ok_iff w i).1 hi
    rwa [mnemonic_instrOf]

/-- A row's fixed bits are among the bits it uses. -/
theorem usedBits_and_rowMask (m : Mnemonic) : usedBits m &&& rowMask m = rowMask m := by
  cases m <;> rfl

/-- Two words of a row that agree on the bits it uses give the same instruction: both encode to those bits (R85). -/
theorem instrOf_extract_congr {w w' : Word} {m : Mnemonic} (h : selects (extract w) = .ok m)
    (h' : selects (extract w') = .ok m) (hused : w' &&& usedBits m = w &&& usedBits m) :
    instrOf m (extract w') = instrOf m (extract w) := by
  have hencode : encode (instrOf m (extract w')) = encode (instrOf m (extract w)) := by
    rw [encode_instrOf_extract h', encode_instrOf_extract h, hused]
  have hback := decodeWord_encode (instrOf_extract_wf m w')
  rw [hencode, decodeWord_encode (instrOf_extract_wf m w)] at hback
  exact (Except.ok.inj hback).symm

/-- Settles O7: the second word is of the row too, since the row's fixed bits are among those it uses, and so gives the same
instruction (R85). -/
theorem unusedBitsDoNotMatter : Obligations.UnusedBitsDoNotMatter := by
  intro pc w w' m hrow hused
  have hrow' : w' &&& rowMask m = rowMatch m := by
    rw [← usedBits_and_rowMask, ← BitVec.and_assoc, hused, BitVec.and_assoc, usedBits_and_rowMask, hrow]
  have hword : decodeWord w' = decodeWord w := by
    rw [Machine.decodeWord_of_row hrow', Machine.decodeWord_of_row hrow, instrOf_extract_congr (Machine.selects_of_row hrow)
      (Machine.selects_of_row hrow') hused]
  exact ⟨hword, by rw [Machine.decode_eq, Machine.decode_eq, hword]⟩

/-- A jump target is a multiple of four (R105). -/
theorem jumpTarget_mod_four (pc : Word) (addr : BitVec 26) : (Machine.jumpTarget pc addr).toNat % 4 = 0 := by
  obtain ⟨-, -, hlow, -, -⟩ := Machine.jumpTargetsJoinRegionAndAddress pc addr
  exact (toNat_lowField _ 2).symm.trans (congrArg BitVec.toNat hlow)

/-- The value of a well-formed instruction is well formed (R101). -/
theorem decodedOf_wf (pc : Word) {i : Instr} (h : i.wf = true) : (Machine.decodedOf pc i).wf = true := by
  cases i
  case j | jal => simp [Machine.decodedOf, Decoded.wf, jumpTarget_mod_four]
  case addiu | andi | lui | lw | sw =>
    have hsimm : simmOk _ = true := h
    simp [Machine.decodedOf, Decoded.wf, hsimm]
  all_goals rfl

/-- Settles O8: a word's value is that of a well-formed instruction, or `unrecognized` (R101). -/
theorem decodedValuesPairMnemonicsWithTheirShapes : Obligations.DecodedValuesPairMnemonicsWithTheirShapes := by
  intro pc w
  rw [Machine.decode_eq]
  cases hw : decodeWord w with
  | error r => rfl
  | ok i => exact decodedOf_wf pc (decodingLosesOnlyDontCareBits w i hw).1

/-- Settles O9: of the instructions' values only those of `j`, `jal`, `beq` and `bne` are made with the pc (R103). -/
theorem decodeReadsThePcOnlyForTargets : Obligations.DecodeReadsThePcOnlyForTargets := by
  intro pc pc' w hjump hbranch
  simp only [Machine.decode_eq] at hjump hbranch ⊢
  generalize decodeWord w = decoded at *
  cases decoded with
  | error r => rfl
  | ok i =>
    cases i
    case j | jal => exact absurd rfl (hjump _ _)
    case beq | bne => exact absurd rfl (hbranch _ _ _ _)
    all_goals rfl

/-- Settles O1: seven of the spec's words and two words of no row, by evaluating the decoder (95_test_vectors.md). -/
theorem specWordsDecodeToTheirInstructions : Obligations.SpecWordsDecodeToTheirInstructions :=
  ⟨rfl, rfl, rfl, rfl, rfl, rfl, rfl, rfl, rfl⟩

end Sys2Proof
end

section
/-! PROOFS. The pass over the words (42_itype_jtype.md section 1, 45_formatter.md R175): the jumps and branches, which list a target
of their own pc, and what a step in `DONE` lists and leaves unchanged. -/

namespace Sys2Proof.Machine

/-! ### Jumps and branches -/

/-- Settles O25: the line has the target as its one operand, and the rows of `j` and `jal` fix the opcode (R140, R141). -/
theorem jumpsListTheirTarget : Obligations.JumpsListTheirTarget :=
  ⟨fun _ _ => ⟨exec_prints_one_operand rfl rfl, exec_prints_one_operand rfl rfl⟩,
    fun _ _ hw => ⟨decode_and_step_of_row (m := .j) hw, decode_and_step_of_row (m := .jal) hw⟩⟩

/-- Settles O26: the line has the operands rs, rt and the target, and the rows of `beq` and `bne` fix the opcode (R142, R143). -/
theorem branchesListRsRtAndTarget : Obligations.BranchesListRsRtAndTarget :=
  ⟨fun _ _ _ _ => ⟨exec_prints_three_operands rfl rfl, exec_prints_three_operands rfl rfl⟩,
    fun _ _ hw => ⟨decode_and_step_of_row (m := .beq) hw, decode_and_step_of_row (m := .bne) hw⟩⟩

/-! ### A step that lists -/

/-- The step of a state that presents a word lists the word's decoded value at its pc (R175). -/
theorem step_lists {s : State} {w : Word} (h : Presents s w) : step s = .next (s.list (decode s.pc w)) := by
  rw [step_of_presents h, runWord_eq_emit_decode, emit_next]

/-- Settles O33: the machine's path lists the value of R102's `decode`. -/
theorem everyPresentedWordListsItsDecodedValue : Obligations.EveryPresentedWordListsItsDecodedValue :=
  fun _ _ => step_lists

/-- Settles O37: the line is that of the value `decode` gives for the pc and the word, which the two states share (R218). -/
theorem linesDependOnPcAndWordAlone : Obligations.LinesDependOnPcAndWordAlone := by
  intro s t w hs ht hpc
  refine ⟨lineOf s.pc (decode s.pc w), step_lists hs, ?_⟩
  rw [hpc]
  exact step_lists ht

/-- Settles O32: a step runs the word it presents, and a word that decodes runs as its instruction. -/
theorem stepRunsTheDecodedInstruction : Obligations.StepRunsTheDecodedInstruction := by
  intro s w i hw hi
  rw [step_of_presents hw, runWord, hi]

/-- Settles O38: the loaded state presents its word, and a table word decodes as the word of its bits (log entry 9). -/
theorem aFetchWordRunsNext : Obligations.AFetchWordRunsNext := by
  intro s nbits w i hi
  rw [decodeTableWord_eq] at hi
  refine stepRunsTheDecodedInstruction _ _ i (withFetchWord_presents s nbits w) ?_
  cases hw : decodeWord (BitVec.ofNat 32 w) with
  | ok j => exact congrArg _ (by simpa [hw, Except.toOption] using hi)
  | error r => simp [hw, Except.toOption] at hi

/-! ### What listing leaves unchanged -/

/-- Settles O34: an instruction lists one decoded value, and listing touches the listing and the cursor alone. -/
theorem instructionsChangeOnlyTheListing : Obligations.InstructionsChangeOnlyTheListing := by
  intro i s t h
  obtain ⟨d, -, hexec⟩ := exec_emits i s
  obtain rfl : s.list d = t := Host.Outcome.next.inj (hexec.symm.trans h)
  exact ⟨rfl, rfl, rfl, rfl, rfl, rfl, rfl, rfl, rfl, State.bufWord_congr rfl rfl, rfl, rfl, _, rfl⟩

/-- The pc is the start address and four for each listed word, reduced (R24). -/
theorem State.toNat_pc (s : State) : s.pc.toNat = (s.start.toNat + 4 * s.cursor) % 2 ^ 32 := BitVec.toNat_ofNat ..

/-- Listing moves the pc on by four, whatever was decoded (R24, R25). -/
theorem State.list_pc (d : Decoded) (s : State) : (s.list d).pc = s.pc + 4#32 := by
  apply BitVec.eq_of_toNat_eq
  rw [BitVec.toNat_add, State.toNat_pc, State.toNat_pc, State.list_start, State.list_cursor, BitVec.toNat_ofNat]
  omega

/-- Settles O36: a step that lists moves the pc on by four, and the pc keeps the low two bits of `start` (R24 to R26). -/
theorem thePcAdvancesByFourWhateverIsDecoded : Obligations.ThePcAdvancesByFourWhateverIsDecoded := by
  refine ⟨State.toNat_pc, fun s t w hw h => ?_⟩
  obtain rfl : s.list (decode s.pc w) = t := Host.Outcome.next.inj ((step_lists hw).symm.trans h)
  refine ⟨State.list_pc _ s, ?_⟩
  rw [State.toNat_pc, State.list_start]
  omega

/-- A step in `DONE` or `ERROR` lists one value or changes nothing. -/
theorem step_of_ended {s t : State} (hp : s.phase = .done ∨ s.phase = .error) (h : step s = .next t) :
    t = s ∨ s.phase = .done ∧ ∃ d, t = s.list d := by
  rcases step_cases s with ⟨hr, -⟩ | ⟨hd, hstep⟩ | ⟨-, hstep⟩
  · rcases hp with hp | hp <;> simp [hp, Phase.reading] at hr
  · rcases listStep_cases Config.capWords s with ⟨-, hlist⟩ | ⟨w, -, -, hlist⟩ | ⟨-, -, hlist⟩
    · exact .inl (Host.Outcome.next.inj (h.symm.trans (hstep.trans hlist)))
    · obtain ⟨d, hrun⟩ := runWord_lists w s
      exact .inr ⟨hd, d, Host.Outcome.next.inj (h.symm.trans (hstep.trans (hlist.trans hrun)))⟩
    · cases h.symm.trans (hstep.trans hlist)
  · exact .inl (Host.Outcome.next.inj (h.symm.trans hstep))

/-- Settles O44: listing changes no reader register, no entry of `buf` and no pending event (R30, R51). -/
theorem theContainerIsImmutableOnceRead : Obligations.TheContainerIsImmutableOnceRead := by
  intro s t hp h
  rcases step_of_ended hp h with rfl | ⟨-, d, rfl⟩
  · exact ⟨rfl, rfl, fun _ _ => rfl, rfl, rfl, rfl, rfl, rfl, rfl, rfl⟩
  · exact ⟨rfl, rfl, State.bufWord_congr rfl rfl, rfl, rfl, rfl, rfl, rfl, rfl, rfl⟩

/-- Settles O45: a step in `ERROR` answers the same state, and so does every run (R200). -/
theorem errorsArePermanent : Obligations.ErrorsArePermanent := by
  intro n s hp
  exact run_of_fixed (by rw [step, hp]) n

/-- Settles O60: an entry holds the written word, or else the free one, and a step lists the word that the cursor's entry holds. -/
theorem everyEntryHoldsAWordAndThePassGoesOn : Obligations.EveryEntryHoldsAWordAndThePassGoesOn := by
  refine ⟨fun cap s k hk => ?_, fun cap s hcount hcap hread => ?_, fun s hp => ?_⟩
  · cases hread : s.buf.read k with
    | some w => exact State.bufWord_of_written cap hread
    | none => exact State.bufWord_of_unwritten hread hk
  · have hfetch : fetchWord cap s = some (Config.unwrittenWord s.resets s.cursor) := State.bufWord_of_unwritten hread hcap
    rw [listStep, if_pos hcount, hfetch]
    exact runWord_eq_emit_decode _ s
  · rw [step, hp]

end Sys2Proof.Machine
end

section
/-! PROOFS. The invariant (10_state.md R28, 45_formatter.md R175): each update of the reader and the listing keeps it, so every step
does; under it no step stops, and a finished pass has listed the container. -/

namespace Sys2Proof.Machine

/-! ### The defined entries as a list -/

/-- A store whose indices are an interval reads as the list of its words. -/
theorem WordStore.read_of_interval {m : WordStore} {a n : Nat} (h : m.map Prod.fst = List.range' a n) (k : Nat) :
    m.read (a + k) = (m.map Prod.snd)[k]? := by
  induction m generalizing a n k with
  | nil => rfl
  | cons p rest ih =>
    obtain ⟨k', v⟩ := p
    cases n with
    | zero => cases h
    | succ n =>
      rw [List.map_cons, List.range'_succ, List.cons.injEq] at h
      obtain ⟨rfl, hrest⟩ := h
      cases k with
      | zero => exact if_pos rfl
      | succ k =>
        rw [WordStore.read, if_neg (by simp), List.map_cons, List.getElem?_cons_succ, ← ih hrest k]
        congr 1
        omega

/-- Under R28's form of `buf` an entry reads as the defined word of that number. -/
theorem State.StoreInv.read_eq {s : State} (h : s.StoreInv) (k : Nat) : s.buf.read k = s.words[k]? := by
  rw [← Nat.zero_add k, WordStore.read_of_interval (h.trans List.range_eq_range'), Nat.zero_add]
  rfl

/-- Under R28's form of `buf` as many words are defined as `index` says. -/
theorem State.StoreInv.length_words {s : State} (h : s.StoreInv) : s.words.length = s.index.toNat := by
  have hlength := congrArg List.length h
  rwa [List.length_map, List.length_range, ← List.length_map (f := Prod.snd)] at hlength

/-- Under R28's form of `buf` the next word goes behind the defined entries. -/
theorem State.StoreInv.write_index {s : State} (h : s.StoreInv) (v : Word) :
    s.buf.write s.index.toNat v = s.buf ++ [(s.index.toNat, v)] :=
  WordStore.write_fresh _ _ _ fun _ hj => List.mem_range.1 (h ▸ hj)

/-- While a word is to come, `index` counts on without wrapping. -/
theorem toNat_index_succ {s : State} (h : s.index.toNat < s.count.toNat) : (s.index + 1).toNat = s.index.toNat + 1 := by
  have hcount := s.count.isLt
  rw [BitVec.toNat_add, show (1 : Word).toNat = 1 from rfl]
  omega

/-- Storing the next word keeps R28's form of `buf`. -/
theorem State.StoreInv.putWord {s : State} (h : s.StoreInv) (hmore : s.index.toNat < s.count.toNat) (v : Word) :
    (s.putWord v).StoreInv := by
  rw [State.StoreInv, State.putWord_buf, State.putWord_index, h.write_index, toNat_index_succ hmore, List.map_append, h,
    List.range_succ]
  rfl

/-- Storing the next word appends it to the defined words. -/
theorem State.StoreInv.words_putWord {s : State} (h : s.StoreInv) (v : Word) : (s.putWord v).words = s.words ++ [v] := by
  rw [State.words, State.putWord_buf, h.write_index, List.map_append]
  rfl

/-! ### The parts of the invariant -/

/-- A state of another phase meets the error relations too when both phases are `ERROR` or neither is. -/
theorem State.ErrorInv.congr {s t : State} (h : s.ErrorInv) (herr : t.err = s.err) (hinfo : t.info = s.info)
    (hphase : t.phase = .error ↔ s.phase = .error) : t.ErrorInv := by
  rw [State.ErrorInv, herr, hinfo, hphase]
  exact h

/-- Before `DONE` nothing is listed (R215). -/
theorem State.ListingInv.empty {s : State} (h : s.ListingInv) (hp : s.phase ≠ .done) : s.cursor = 0 ∧ s.listing = [] := by
  obtain ⟨-, hcursor, hlisting⟩ := h
  rw [hcursor hp] at hlisting
  exact ⟨hcursor hp, hlisting⟩

/-- An empty listing is the first 0 lines of any container's. -/
theorem State.ListingInv.of_empty {s : State} (h : s.cursor = 0 ∧ s.listing = []) : s.ListingInv := by
  obtain ⟨hcursor, hlisting⟩ := h
  exact ⟨by omega, fun _ => hcursor, by rw [hcursor, hlisting]; rfl⟩

/-- A byte added to `nbytes` gathered bytes makes one byte more (R44). -/
theorem toNat_shiftIn_lt {acc : Word} {n : Nat} (h : acc.toNat < 256 ^ n) (b : Byte) :
    (shiftIn acc b).toNat < 256 ^ (n + 1) := by
  have hb := b.isLt
  simp only [shiftIn, BitVec.toNat_add, BitVec.toNat_shiftLeft, BitVec.toNat_setWidth, Nat.shiftLeft_eq, Nat.pow_succ]
  omega

/-- What the source still has to give is well formed when an event has been taken (R43). -/
theorem sourceWf_tail {e : InputEvent} {rest : List InputEvent} (h : sourceWf (e :: rest) = true) : sourceWf rest = true := by
  cases e with
  | byte b => exact h
  | sourceEnd | fail =>
    obtain rfl : rest = [] := List.isEmpty_iff.1 h
    rfl

/-! ### The reader's updates keep the invariant -/

section
variable {s : State} (h : s.Inv)
include h

/-- In `WORDS` the buffer has an entry for the word to come (R28). -/
theorem State.Inv.room (hp : s.phase = .words) : s.index.toNat < Config.capWords.toNat := by
  obtain ⟨-, ⟨-, -, -, hwords, -⟩, -⟩ := h
  obtain ⟨hmore, hcap⟩ := hwords hp
  exact hmore.trans_le hcap

/-- Taking an event from the source keeps the invariant. -/
theorem State.Inv.tail {e : InputEvent} {rest : List InputEvent} (hi : s.input = e :: rest) :
    State.Inv { s with input := rest } := by
  obtain ⟨herr, hcount, hacc, hstore, hlist, hsource⟩ := h
  exact ⟨herr, hcount, hacc, hstore, hlist, sourceWf_tail (hi ▸ hsource)⟩

/-- Raising an error while nothing is listed keeps the invariant (R191). -/
theorem State.Inv.raise (hp : s.phase ≠ .done) (e : ReaderError) (i : ErrorInfo) : (s.raise e i).Inv := by
  obtain ⟨-, ⟨hle, -⟩, ⟨hacc, -⟩, hstore, hlist, hsource⟩ := h
  exact ⟨⟨by simp, by simp⟩, ⟨hle, nofun, nofun, nofun, nofun⟩, ⟨hacc, nofun⟩, hstore, .of_empty (hlist.empty hp), hsource⟩

/-- Gathering a byte keeps the invariant (R44). -/
theorem State.Inv.gather (hp : s.phase ≠ .done) (hn : s.nbytes.val < 3) (b : Byte) : (s.gather (shiftIn s.acc b)).Inv := by
  obtain ⟨herr, hcount, ⟨hacc, -⟩, hstore, hlist, hsource⟩ := h
  have hsucc : (s.nbytes + 1).val = s.nbytes.val + 1 := by omega
  have hbytes : (shiftIn s.acc b).toNat < 256 ^ (s.nbytes + 1).val := hsucc ▸ toNat_shiftIn_lt hacc b
  exact ⟨herr, hcount, ⟨hbytes, fun hd => absurd hd hp⟩, hstore, hlist, hsource⟩

/-- Clearing the gathered bytes keeps the invariant (R44). -/
theorem State.Inv.takeField : s.takeField.Inv := by
  obtain ⟨herr, hcount, -, hstore, hlist, hsource⟩ := h
  exact ⟨herr, hcount, ⟨Nat.one_pos, fun _ => rfl⟩, hstore, hlist, hsource⟩

/-- Latching the count keeps the invariant (R46). -/
theorem State.Inv.latchCount (hp : s.phase = .count) (v : Word) : (s.latchCount v).Inv := by
  obtain ⟨herr, ⟨-, hheader, -⟩, ⟨hacc, -⟩, hstore, hlist, hsource⟩ := h
  obtain ⟨-, hstart, hindex⟩ := hheader hp
  have hle : s.index.toNat ≤ v.toNat := by simp [hindex]
  exact ⟨herr.congr rfl rfl (by simp [hp]), ⟨hle, nofun, fun _ => ⟨hstart, hindex⟩, nofun, nofun⟩, ⟨hacc, nofun⟩, hstore,
    .of_empty (hlist.empty (by simp [hp])), hsource⟩

/-- Latching the start address and ending the header keeps the invariant, whichever of its three ends it comes to (R47). -/
theorem State.Inv.endOfHeader (hp : s.phase = .start) (hn : s.nbytes = 0) (v : Word) :
    (endOfHeader Config.capWords (s.latchStart v)).Inv := by
  obtain ⟨herr, ⟨hle, -, hheader, -⟩, ⟨hacc, -⟩, hstore, hlist, hsource⟩ := h
  obtain ⟨-, hindex⟩ := hheader hp
  have hempty := hlist.empty (by simp [hp])
  have hzero : s.index.toNat = 0 := by simp [hindex]
  rcases endOfHeader_cases Config.capWords (s.latchStart v) with ⟨-, hend⟩ | ⟨-, hcount, hend⟩ | ⟨hcap, hcount, hend⟩ <;> rw [hend]
  · exact ⟨⟨by simp, by simp⟩, ⟨hle, nofun, nofun, nofun, nofun⟩, ⟨hacc, nofun⟩, hstore, .of_empty hempty, hsource⟩
  · exact ⟨herr.congr rfl rfl (by simp [hp]), ⟨hle, nofun, nofun, nofun, fun _ => hindex.trans hcount.symm⟩,
      ⟨hacc, fun _ => hn⟩, hstore, .of_empty hempty, hsource⟩
  · have hpos : s.index.toNat < s.count.toNat := hzero ▸ Nat.pos_of_ne_zero (mt (BitVec.eq_of_toNat_eq (y := 0)) hcount)
    exact ⟨herr.congr rfl rfl (by simp [hp]), ⟨hle, nofun, nofun, fun _ => ⟨hpos, hcap⟩, nofun⟩, ⟨hacc, nofun⟩, hstore,
      .of_empty hempty, hsource⟩

/-- Storing a word, and ending the words with the last one, keeps the invariant (R48). -/
theorem State.Inv.putWord (hp : s.phase = .words) (hn : s.nbytes = 0) (v : Word) :
    ((s.putWord v).enter (if s.index + 1 = s.count then .done else .words)).Inv := by
  obtain ⟨herr, ⟨-, -, -, hwords, -⟩, ⟨hacc, -⟩, hstore, hlist, hsource⟩ := h
  obtain ⟨hlt, hcap⟩ := hwords hp
  have hstore' : (s.putWord v).StoreInv := hstore.putWord hlt v
  have hindex := toNat_index_succ hlt
  have hempty := hlist.empty (by simp [hp])
  by_cases hlast : s.index + 1 = s.count
  · rw [if_pos hlast]
    exact ⟨herr.congr rfl rfl (by simp [hp]), ⟨le_of_eq (congrArg _ hlast), nofun, nofun, nofun, fun _ => hlast⟩,
      ⟨hacc, fun _ => hn⟩, hstore', .of_empty hempty, hsource⟩
  · rw [if_neg hlast]
    have hmore : (s.index + 1).toNat < s.count.toNat := by
      have hne : (s.index + 1).toNat ≠ s.count.toNat := mt BitVec.eq_of_toNat_eq hlast
      omega
    exact ⟨herr.congr rfl rfl (by simp [hp]), ⟨hmore.le, nofun, nofun, fun _ => ⟨hmore, hcap⟩, nofun⟩, ⟨hacc, nofun⟩,
      hstore', .of_empty hempty, hsource⟩

/-- A completed field keeps the invariant, in every phase (R44). -/
theorem State.Inv.completeField (hn : s.nbytes = 0) {v : Word} {t : State}
    (hstep : completeField Config.capWords v s = .next t) : t.Inv := by
  rw [Machine.completeField] at hstep
  split at hstep
  next hp => exact Host.Outcome.next.inj hstep ▸ h.latchCount hp v
  next hp => exact Host.Outcome.next.inj hstep ▸ h.endOfHeader hp hn v
  next hp =>
    rw [storeWord_of_room v hp (h.room hp)] at hstep
    exact Host.Outcome.next.inj hstep ▸ h.putWord hp hn v
  next => exact Host.Outcome.next.inj hstep ▸ h
  next => exact Host.Outcome.next.inj hstep ▸ h

/-- An event the reader takes keeps the invariant (R44, R49, R50). -/
theorem State.Inv.readEvent (hp : s.phase ≠ .done) {e : InputEvent} {t : State}
    (hstep : readEvent Config.capWords e s = .next t) : t.Inv := by
  rcases readEvent_cases Config.capWords e s with ⟨-, he⟩ | ⟨-, he⟩ | ⟨b, -, hn, he⟩ | ⟨b, -, -, he⟩ <;> rw [he] at hstep
  · exact Host.Outcome.next.inj hstep ▸ h.raise hp _ _
  · exact Host.Outcome.next.inj hstep ▸ h.raise hp _ _
  · exact Host.Outcome.next.inj hstep ▸ h.gather hp hn b
  · exact h.takeField.completeField rfl hstep

end

/-! ### The pass keeps the invariant -/

/-- One more line of a listing is the line of the next word (R175). -/
theorem linesUpTo_succ (start : Word) {words : List Word} {k : Nat} {w : Word} (h : words[k]? = some w) :
    linesUpTo start words (k + 1) = linesUpTo start words k ++ lineOf (pcAt start k) (decode (pcAt start k) w) := by
  have hline : lineAt start words k = lineOf (pcAt start k) (decode (pcAt start k) w) := by rw [lineAt, h]
  rw [linesUpTo, List.range_succ, List.flatMap_append, List.flatMap_singleton, hline]
  rfl

section
variable {s : State} (h : s.Inv)
include h

/-- In `DONE` a word to be listed is one of the container's, so the state presents it (R29). -/
theorem State.Inv.presents (hp : s.phase = .done) (hmore : s.cursor < s.count.toNat) :
    ∃ w, s.words[s.cursor]? = some w ∧ Presents s w := by
  obtain ⟨-, ⟨-, -, -, -, hdone⟩, -, hstore, -⟩ := h
  have hlt : s.cursor < s.words.length := by rwa [hstore.length_words, hdone hp]
  have hword : s.words[s.cursor]? = some s.words[s.cursor] := List.getElem?_eq_getElem hlt
  exact ⟨_, hword, hp, hmore, State.bufWord_of_written _ ((hstore.read_eq _).trans hword)⟩

/-- Listing the word at the cursor keeps the invariant (R175). -/
theorem State.Inv.list (hp : s.phase = .done) (hmore : s.cursor < s.count.toNat) {w : Word}
    (hw : s.words[s.cursor]? = some w) : (s.list (decode s.pc w)).Inv := by
  obtain ⟨herr, hcount, hacc, hstore, ⟨-, -, hlisting⟩, hsource⟩ := h
  refine ⟨herr, hcount, hacc, hstore, ⟨hmore, fun hne => absurd hp hne, ?_⟩, hsource⟩
  exact (congrArg (· ++ _) hlisting).trans (linesUpTo_succ s.start hw).symm

/-- In `DONE` with a word to be listed, a step lists the container's word at the cursor. -/
theorem State.Inv.step_lists (hp : s.phase = .done) (hmore : s.cursor < s.count.toNat) :
    ∃ d, step s = .next (s.list d) ∧ (s.list d).Inv := by
  obtain ⟨w, hword, hw⟩ := h.presents hp hmore
  exact ⟨_, Machine.step_lists hw, h.list hp hmore hword⟩

end

/-! ### The statements -/

/-- Settles O52: the reader's step keeps the invariant by `State.Inv.readEvent`, the pass by `State.Inv.list`, and an error changes
nothing. -/
theorem everyStepKeepsTheInvariant : Obligations.EveryStepKeepsTheInvariant := by
  intro s t h hstep
  rcases step_cases s with ⟨hr, hs⟩ | ⟨hp, hs⟩ | ⟨-, hs⟩
  · have hp : s.phase ≠ .done := fun hd => by simp [hd, Phase.reading] at hr
    rcases readStep_cases s with ⟨-, hread⟩ | ⟨e, rest, hi, hread⟩ <;> rw [hs, hread] at hstep
    · exact Host.Outcome.next.inj hstep ▸ h
    · exact (h.tail hi).readEvent hp hstep
  · by_cases hmore : s.cursor < s.count.toNat
    · obtain ⟨d, hlist, hinv⟩ := h.step_lists hp hmore
      exact Host.Outcome.next.inj (hlist.symm.trans hstep) ▸ hinv
    · rw [hs, listStep, if_neg hmore] at hstep
      exact Host.Outcome.next.inj hstep ▸ h
  · exact Host.Outcome.next.inj (hs.symm.trans hstep) ▸ h

/-- The invariant holds at the start of a pass over any source of R43's form. -/
theorem boot_inv {input : List InputEvent} (h : sourceWf input = true) : (State.boot input).Inv :=
  ⟨⟨by simp, by simp⟩, ⟨le_rfl, fun _ => ⟨rfl, rfl, rfl⟩, nofun, nofun, nofun⟩, ⟨Nat.one_pos, nofun⟩, rfl,
    .of_empty ⟨rfl, rfl⟩, h⟩

/-- Settles O51: every relation of the invariant holds of R32's values. -/
theorem theInvariantHoldsAtReset : Obligations.TheInvariantHoldsAtReset :=
  ⟨boot_inv rfl, fun s h => boot_inv (input := s.input) h⟩

/-- A completed field stops the reader exactly on a word for an index that the buffer does not have. -/
theorem completeField_stops_iff (cap v : Word) (s : State) :
    (completeField cap v s = .fault .outsideBuffer ↔ s.phase = .words ∧ cap.toNat ≤ s.index.toNat) ∧
    ∀ r, completeField cap v s ≠ .refused r := by
  rw [completeField]
  cases hp : s.phase
  case words =>
    rcases storeWord_cases cap v s with ⟨hroom, -, h⟩ | ⟨hroom, -, h⟩ | ⟨hfull, h⟩ <;> simp [h] <;> omega
  all_goals simp

/-- An event stops the reader exactly when it is a byte that completes such a word. -/
theorem readEvent_stops_iff (cap : Word) (e : InputEvent) (s : State) :
    (readEvent cap e s = .fault .outsideBuffer ↔
      s.phase = .words ∧ s.nbytes = 3 ∧ (∃ b, e = .byte b) ∧ cap.toNat ≤ s.index.toNat) ∧
    ∀ r, readEvent cap e s ≠ .refused r := by
  rcases readEvent_cases cap e s with ⟨rfl, h⟩ | ⟨rfl, h⟩ | ⟨b, rfl, hn, h⟩ | ⟨b, rfl, hn, h⟩ <;> rw [h]
  · simp
  · simp
  · have hne : s.nbytes ≠ 3 := by omega
    simp [hne]
  · simpa [hn] using completeField_stops_iff cap (shiftIn s.acc b) s.takeField

/-- A reader step stops exactly when it takes such a byte from the source. -/
theorem readStep_stops_iff (s : State) :
    (readStep s = .fault .outsideBuffer ↔
      s.phase = .words ∧ s.nbytes = 3 ∧ (∃ b rest, s.input = .byte b :: rest) ∧
        Config.capWords.toNat ≤ s.index.toNat) ∧
    ∀ r, readStep s ≠ .refused r := by
  rcases readStep_cases s with ⟨hi, h⟩ | ⟨e, rest, hi, h⟩ <;> rw [h, hi]
  · simp
  · simpa using readEvent_stops_iff Config.capWords e { s with input := rest }

/-- A step of the pass stops exactly at an entry that nothing was written at and that the buffer does not have. -/
theorem listStep_stops_iff (cap : Word) (s : State) :
    (listStep cap s = .fault .outsideBuffer ↔
      s.cursor < s.count.toNat ∧ s.buf.read s.cursor = none ∧ cap.toNat ≤ s.cursor) ∧
    ∀ r, listStep cap s ≠ .refused r := by
  rw [← State.bufWord_eq_none_iff, show s.bufWord cap s.cursor = fetchWord cap s from rfl]
  rcases listStep_cases cap s with ⟨hend, h⟩ | ⟨w, hmore, hw, h⟩ | ⟨hmore, hw, h⟩
  · simp [h, hend]
  · obtain ⟨d, hrun⟩ := runWord_lists w s
    simp [h, hrun, hw]
  · simp [h, hw, hmore]

/-- Settles O49: a step stops where the step of its phase does, and `outsideBuffer` is the one fault there is. -/
theorem stepsStopOnlyOnBrokenStates : Obligations.StepsStopOnlyOnBrokenStates := by
  intro s
  rcases step_cases s with ⟨hr, h⟩ | ⟨hp, h⟩ | ⟨hp, h⟩ <;> rw [h]
  · have hp : s.phase ≠ .done := fun hd => by simp [hd, Phase.reading] at hr
    obtain ⟨hfault, hrefused⟩ := readStep_stops_iff s
    exact ⟨by simp [hfault, hp], fun f _ => by cases f; rfl, hrefused⟩
  · obtain ⟨hfault, hrefused⟩ := listStep_stops_iff Config.capWords s
    exact ⟨by simp [hfault, hp], fun f _ => by cases f; rfl, hrefused⟩
  · exact ⟨by simp [hp], nofun, nofun⟩

/-- Settles O53: in `WORDS` the buffer has room for the word to come, and in `DONE` the words to list are written, so none of O49's
faults can be. -/
theorem noStepStopsUnderTheInvariant : Obligations.NoStepStopsUnderTheInvariant := by
  intro s h
  obtain ⟨hfault, honly, hrefused⟩ := stepsStopOnlyOnBrokenStates s
  cases hstep : step s with
  | next t => exact ⟨t, rfl⟩
  | refused r => exact absurd hstep (hrefused r)
  | fault f =>
    rcases hfault.1 (honly f hstep ▸ hstep) with ⟨hp, -, -, hfull⟩ | ⟨hp, hmore, -, -⟩
    · exact absurd (h.room hp) (by omega)
    · obtain ⟨d, hlist, -⟩ := h.step_lists hp hmore
      rw [hlist] at hstep
      cases hstep

/-- Settles O54: in `DONE` the defined words are the whole container, and with the cursor at `count` the listing has a line for
each. -/
theorem aFinishedPassHasListedTheContainer : Obligations.AFinishedPassHasListedTheContainer := by
  intro s h hp hcursor
  obtain ⟨-, ⟨-, -, -, -, hdone⟩, -, hstore, ⟨-, -, hlisting⟩, -⟩ := h
  have hlength : s.words.length = s.count.toNat := by rw [hstore.length_words, hdone hp]
  refine ⟨⟨s.count, s.start, s.words⟩, by rw [State.container, hp], rfl, rfl, hlength, fun k => (hstore.read_eq k).symm,
    fun cap k hk => ?_, by rw [hlisting, hcursor]; rfl⟩
  have hword : s.words[k]? = some s.words[k] := List.getElem?_eq_getElem (hlength ▸ hk)
  exact hword.trans (State.bufWord_of_written cap ((hstore.read_eq k).trans hword)).symm

/-- Completing a field does not change the listing. -/
theorem completeField_listing {cap v : Word} {s t : State} (h : completeField cap v s = .next t) :
    t.listing = s.listing := by
  rw [completeField] at h
  split at h
  case h_2 =>
    obtain rfl := Host.Outcome.next.inj h
    rcases endOfHeader_cases cap (s.latchStart v) with ⟨-, hend⟩ | ⟨-, -, hend⟩ | ⟨-, -, hend⟩ <;> simp [hend]
  case h_3 =>
    rcases storeWord_cases cap v s with ⟨-, -, hstore⟩ | ⟨-, -, hstore⟩ | ⟨-, hstore⟩ <;> rw [hstore] at h
    · simp [← Host.Outcome.next.inj h]
    · simp [← Host.Outcome.next.inj h]
    · cases h
  all_goals simp [← Host.Outcome.next.inj h]

/-- No event that the reader takes changes the listing. -/
theorem readEvent_listing {cap : Word} {e : InputEvent} {s t : State} (h : readEvent cap e s = .next t) :
    t.listing = s.listing := by
  rcases readEvent_cases cap e s with ⟨-, he⟩ | ⟨-, he⟩ | ⟨b, -, -, he⟩ | ⟨b, -, -, he⟩ <;> rw [he] at h
  · simp [← Host.Outcome.next.inj h]
  · simp [← Host.Outcome.next.inj h]
  · simp [← Host.Outcome.next.inj h]
  · simp [completeField_listing h]

/-- Settles O46: the reader's step changes no listing, and before `DONE` the listing is empty (R53, R201). -/
theorem noLineWithoutACompleteContainer : Obligations.NoLineWithoutACompleteContainer := by
  refine ⟨fun s t hstep hne => ?_, fun s h hp => ?_⟩
  · rcases step_cases s with ⟨-, hs⟩ | ⟨hp, -⟩ | ⟨-, hs⟩
    · rcases readStep_cases s with ⟨-, hread⟩ | ⟨e, rest, -, hread⟩ <;> rw [hs, hread] at hstep
      · exact absurd (Host.Outcome.next.inj hstep ▸ rfl) hne
      · exact absurd (readEvent_listing hstep) hne
    · exact hp
    · exact absurd (Host.Outcome.next.inj (hs.symm.trans hstep) ▸ rfl) hne
  · obtain ⟨-, -, -, -, hlist, -⟩ := h
    exact (hlist.empty (by simp [hp])).2

end Sys2Proof.Machine
end

section
/-! PROOFS. The end of the header, raised errors, idle steps and reset (20_memory.md R47, 60_exceptions.md, 10_state.md section 5). -/

namespace Sys2Proof.Machine

/-- What the end of the header does, as one conditional on the count (R47). -/
theorem endOfHeader_eq (cap : Word) (s : State) :
    endOfHeader cap s =
      if cap.toNat < s.count.toNat then s.raise .capacityExceeded s.siteWithCount
      else if s.count = 0 then s.enter .done else s.enter .words := rfl

/-- Settles O40: four bytes complete a field, and a field completed in `START` is latched and ends the header (R47, R194). -/
theorem fourBytesMakeTheStartAndEndTheHeader : Obligations.FourBytesMakeTheStartAndEndTheHeader := by
  intro cap s b0 b1 b2 b3 hp hn
  have hc : completeField cap (beWord b0 b1 b2 b3) s.takeField =
      .next (endOfHeader cap (s.takeField.latchStart (beWord b0 b1 b2 b3))) := by
    simp [completeField, hp]
  refine ⟨beWord b0 b1 b2 b3, toNat_beWord b0 b1 b2 b3, ?_⟩
  rw [feed_four_bytes b0 b1 b2 b3 [] (by simp [hp, Phase.reading]) hn hc, endOfHeader_eq, State.siteWithCount, State.site,
    State.latchStart_phase, State.takeField_phase, hp]
  rfl

/-- Settles O43: a step of the reader takes the event, and the event raises its error at the site it finds (R191 to R193). -/
theorem raisedErrorsFreezeTheStateAndRecordTheSite : Obligations.RaisedErrorsFreezeTheStateAndRecordTheSite :=
  fun _ _ hr => ⟨step_of_event hr, step_of_event hr⟩

/-- Settles O47: the four codes, and two errors with the same code are the same (R195). -/
theorem errorCodesAreZeroToThree : Obligations.ErrorCodesAreZeroToThree := by
  refine ⟨rfl, rfl, rfl, rfl, fun e e' => ?_⟩
  rcases e with _ | (_ | _ | _) <;> rcases e' with _ | (_ | _ | _) <;> decide

/-- Settles O48: the reader waits for an event, and the pass ends when every word is listed (log entries 5 and 6). -/
theorem idleStepsChangeNothing : Obligations.IdleStepsChangeNothing := by
  refine fun s => ⟨fun hr hi => ?_, fun hp hend => ?_⟩
  · rcases step_cases s with ⟨-, h⟩ | ⟨hp, -⟩ | ⟨hp, -⟩
    · rw [h, readStep, hi]
    · simp [hp, Phase.reading] at hr
    · simp [hp, Phase.reading] at hr
  · rw [step, hp]
    exact if_neg (by omega)

/-- Settles O50: each register and field after reset is the one `State.applyReset` names, and no entry of an empty store is
written (R32, R210). -/
theorem resetSetsEveryReaderRegister : Obligations.ResetSetsEveryReaderRegister :=
  fun _ => ⟨rfl, rfl, rfl, rfl, rfl, rfl, rfl, fun _ => rfl, fun _ _ => rfl, rfl, rfl, rfl, rfl, rfl⟩

end Sys2Proof.Machine
end

section
/-! PROOFS. The word store (10_state.md R28, log entry 2): reading after a write, and stores that read alike. -/

namespace Sys2Proof.Machine

/-- Settles O58: `WordStore.read_write`, for every store. -/
theorem theStoreReadsBackWhatWasWritten : Obligations.TheStoreReadsBackWhatWasWritten :=
  fun m k j v => WordStore.read_write m k v j

/-- The first index of a store reads as its word. -/
theorem WordStore.read_head (k : Nat) (v : Word) (rest : WordStore) : WordStore.read ((k, v) :: rest) k = some v :=
  if_pos rfl

/-- Nothing is read below the first index of a store in canonical form. -/
theorem WordStore.read_of_lt {m : WordStore} {k : Nat} (h : ∀ j ∈ m.map Prod.fst, k < j) : m.read k = none := by
  induction m with
  | nil => rfl
  | cons p rest ih =>
    obtain ⟨hk, hrest⟩ := List.forall_mem_cons.1 h
    rw [WordStore.read, if_neg (by omega), ih hrest]

/-- A store in canonical form reads alike with another only where their first indices are in order: the other's first index is not
below its own. -/
theorem WordStore.head_le_of_read_eq {k k' : Nat} {v v' : Word} {rest rest' : WordStore}
    (hwf : WordStore.wf ((k, v) :: rest)) (hread : WordStore.read ((k, v) :: rest) k' = WordStore.read ((k', v') :: rest') k') :
    k ≤ k' := by
  by_contra hlt
  have hbelow : ∀ j ∈ List.map Prod.fst ((k, v) :: rest), k' < j :=
    List.forall_mem_cons.2 ⟨by omega, fun j hj => lt_trans (by omega) (List.rel_of_pairwise_cons hwf hj)⟩
  rw [WordStore.read_of_lt hbelow, WordStore.read_head] at hread
  cases hread

/-- Settles O59: stores that read alike have the same first index and word, and the rests read alike too. -/
theorem storesThatReadAlikeAreEqual : Obligations.StoresThatReadAlikeAreEqual := by
  intro m
  induction m with
  | nil =>
    intro m' _ _ h
    cases m' with
    | nil => rfl
    | cons p' rest' => exact absurd ((h p'.1).trans (WordStore.read_head ..)) nofun
  | cons p rest ih =>
    obtain ⟨k, v⟩ := p
    intro m' hwf hwf' h
    cases m' with
    | nil => exact absurd ((h k).symm.trans (WordStore.read_head ..)) nofun
    | cons p' rest' =>
      obtain ⟨k', v'⟩ := p'
      obtain rfl : k = k' :=
        le_antisymm (WordStore.head_le_of_read_eq hwf (h k')) (WordStore.head_le_of_read_eq hwf' (h k).symm)
      obtain ⟨hfirst, hrest⟩ := List.pairwise_cons.1 hwf
      obtain ⟨hfirst', hrest'⟩ := List.pairwise_cons.1 hwf'
      have hv : some v = some v' := by simpa only [WordStore.read_head] using h k
      have htail : ∀ j, WordStore.read rest j = WordStore.read rest' j := by
        intro j
        by_cases hj : j = k
        · rw [hj, WordStore.read_of_lt hfirst, WordStore.read_of_lt hfirst']
        · simpa only [WordStore.read, if_neg hj] using h j
      rw [Option.some.inj hv, ih rest' hrest hrest' htail]

end Sys2Proof.Machine
end

section
/-! PROOFS. Numbers and names as text (45_formatter.md R161, R163, R164): the digits of a number read back as it, with no leading
zero. -/

namespace Sys2Proof.Machine

/-- Reading a text on from what stands before it. -/
theorem valueFrom_append (base a : Nat) (t u : Text) :
    valueFrom base a (t ++ u) = (valueFrom base a t).bind fun v => valueFrom base v u := by
  induction t generalizing a with
  | nil => rfl
  | cons c t ih =>
    simp only [List.cons_append, valueFrom]
    cases digitValue c with
    | none => rfl
    | some d =>
      by_cases hd : d < base
      · simp only [if_pos hd, ih]
      · simp only [if_neg hd, Option.bind_none]

section
variable {base : Nat} (hlow : 1 < base)
include hlow

/-- The first digit of a positive number is not zero. -/
theorem head_digits {fuel n : Nat} (hfuel : n < fuel) (hpos : 0 < n) :
    ∃ d, 0 < d ∧ d < base ∧ (digits base fuel n).head? = some (digitChar d) := by
  induction fuel generalizing n with
  | zero => omega
  | succ fuel ih =>
    rw [digits]
    split
    case isTrue hn => exact ⟨n, hpos, hn, rfl⟩
    case isFalse hn =>
      have hless : n / base < n := Nat.div_lt_self hpos hlow
      have hpos' : 0 < n / base := Nat.div_pos (by omega) (by omega)
      obtain ⟨d, hd, hbase, hhead⟩ := ih (by omega) hpos'
      exact ⟨d, hd, hbase, by rw [List.head?_append, hhead]; rfl⟩

/-- The text of zero is the zero that stands alone. -/
theorem natText_zero : natText base 0 = ['0'] := if_pos (by omega)

variable (hhigh : base ≤ 16)
include hhigh

/-- The digits of a number read back as it, when there is fuel for them. -/
theorem valueFrom_digits {fuel n : Nat} (hfuel : n < fuel) : valueFrom base 0 (digits base fuel n) = some n := by
  induction fuel generalizing n with
  | zero => omega
  | succ fuel ih =>
    rw [digits]
    split
    case isTrue hn => rw [valueFrom_digitChar_cons hhigh hn, Nat.mul_zero, Nat.zero_add, valueFrom]
    case isFalse hn =>
      have hless : n / base < n := Nat.div_lt_self (by omega) hlow
      rw [valueFrom_append, ih (by omega), Option.bind_some, valueFrom_digitChar_cons hhigh (Nat.mod_lt _ (by omega)),
        Nat.div_add_mod, valueFrom]

/-- The first character of a positive number's text is a digit above zero. -/
theorem head_natText_ne {n : Nat} (hpos : 0 < n) :
    (natText base n).head? ≠ none ∧ (natText base n).head? ≠ some '0' := by
  have hdigit : ∀ d < 16, 0 < d → digitChar d ≠ '0' := by decide
  obtain ⟨d, hd, hbase, hhead⟩ := head_digits hlow (Nat.lt_succ_self n) hpos
  rw [natText, hhead]
  exact ⟨nofun, fun h => hdigit d (by omega) hd (Option.some.inj h)⟩

/-- The text of a number reads back as it, with no leading zero (R163, R164). -/
theorem natText_spells (n : Nat) : textValue base (natText base n) = some n ∧ noLeadingZero (natText base n) := by
  have hvalue : valueFrom base 0 (natText base n) = some n := valueFrom_digits hlow hhigh (Nat.lt_succ_self n)
  rcases Nat.eq_zero_or_pos n with rfl | hpos
  · have hzero : natText base 0 = ['0'] := natText_zero hlow
    exact ⟨by rw [textValue, if_neg (by simp [hzero]), hvalue], .inl hzero⟩
  · obtain ⟨hnonempty, hnonzero⟩ := head_natText_ne hlow hhigh hpos
    exact ⟨by rw [textValue, if_neg (mt List.head?_eq_none_iff.2 hnonempty), hvalue], .inr hnonzero⟩

end

/-- Settles O14: `hex` is the text in base 16 (R164). -/
theorem hexSpellsTheValueWithoutLeadingZeros : Obligations.HexSpellsTheValueWithoutLeadingZeros :=
  natText_spells (by decide) (by decide)

/-- Settles O15: `dec` is the text in base 10, behind a `-` for a negative value (R163). -/
theorem decSpellsTheSignedValue : Obligations.DecSpellsTheSignedValue := by
  have hdec (n : Nat) : dec n = natText 10 n := if_neg (by omega)
  refine ⟨fun n => ?_, fun n hpos => ?_⟩
  · rw [hdec]
    exact natText_spells (by decide) (by decide) n
  · rw [hdec, dec, if_pos (by omega), Int.natAbs_neg, Int.natAbs_natCast]

/-- Each name the source fixes stands in the default table too (R161). -/
theorem defaultRegName_of_fixed : ∀ i : Spec5, ∀ name ∈ fixedRegName i, defaultRegName i = name := by
  decide

/-- Settles O18: the machine's table has the fixed names, and the default table agrees with them (R161). -/
theorem registerNamesAgreeWithTheFixedEntries : Obligations.RegisterNamesAgreeWithTheFixedEntries :=
  ⟨rfl, rfl, rfl, rfl, rfl, rfl, fun i t h => ⟨by rw [regName, h], defaultRegName_of_fixed i t h⟩, by decide⟩

end Sys2Proof.Machine
end

section
/-! PROOFS. The reader and its functional form (20_memory.md R52, R54), and a whole pass (70_reset_and_hazards.md R214,
60_exceptions.md R202): what feeding a source ends in, and what the machine shows when it has come to an end. -/

namespace Sys2Proof.Machine

/-! ### The container a long enough source holds -/

/-- The container of the words that the header announces (R41, R52). -/
def announced (bytes : List Byte) : Container where
  count := wordAt bytes 0
  start := wordAt bytes 4
  words := (List.range (wordAt bytes 0).toNat).map fun k => wordAt bytes (8 + 4 * k)

/-- A source reads as a container exactly when it is long enough for the words it announces and they fit, and then as these
(R52). -/
theorem readContainer_eq_ok_iff (cap : Word) (bytes : List Byte) (t : Terminal) (c : Container) :
    readContainer cap bytes t = .ok c ↔
      8 + 4 * (wordAt bytes 0).toNat ≤ bytes.length ∧ (wordAt bytes 0).toNat ≤ cap.toNat ∧ announced bytes = c := by
  rw [readContainer]
  split
  case isTrue => simp; omega
  case isFalse =>
    split
    case isTrue => simp; omega
    case isFalse =>
      split
      case isTrue => simp; omega
      case isFalse hcap hlong => simp [not_lt.1 hcap, not_lt.1 hlong, announced]

/-- A word that lies within a byte sequence is the same in every extension. -/
theorem wordAt_append {bytes : List Byte} (extra : List Byte) {offset : Nat} (h : offset + 4 ≤ bytes.length) :
    wordAt (bytes ++ extra) offset = wordAt bytes offset := by
  simp only [wordAt]
  rw [List.getD_append _ _ _ _ (by omega), List.getD_append _ _ _ _ (by omega), List.getD_append _ _ _ _ (by omega),
    List.getD_append _ _ _ _ (by omega)]

/-- Settles O56: every word of the container lies within the bytes it is read from (R54). -/
theorem trailingBytesAreNotRead : Obligations.TrailingBytesAreNotRead := by
  intro cap bytes extra t t' c h
  obtain ⟨hlong, hcap, rfl⟩ := (readContainer_eq_ok_iff cap bytes t c).1 h
  have hcount : wordAt (bytes ++ extra) 0 = wordAt bytes 0 := wordAt_append extra (by omega)
  have hwords : ∀ k ∈ List.range (wordAt bytes 0).toNat, wordAt (bytes ++ extra) (8 + 4 * k) = wordAt bytes (8 + 4 * k) :=
    fun k hk => wordAt_append extra (by have := List.mem_range.1 hk; omega)
  refine (readContainer_eq_ok_iff cap _ t' _).2 ⟨?_, by rwa [hcount], ?_⟩
  · rw [hcount, List.length_append]
    omega
  · rw [announced, hcount, wordAt_append extra (by omega), List.map_congr_left hwords, announced]

/-! ### How reading ends -/

/-- Entering a phase leaves the defined words as they are. -/
@[simp] theorem State.enter_words (p : Phase) (s : State) : (s.enter p).words = s.words := rfl

/-- Feeding the events ends in a state whose reading has the result `r`. -/
def Reads (cap : Word) (s : State) (es : List InputEvent) (r : Except ReaderError Container) : Prop :=
  ∃ u, feed cap es s = .next u ∧ u.result = some r

/-- Once reading has ended no event is taken (R51). -/
theorem feed_of_not_reading {cap : Word} {s : State} (h : s.phase.reading = false) (es : List InputEvent) :
    feed cap es s = .next s := by
  cases es with
  | nil => rfl
  | cons e rest => simp [feed, h]

/-- The result of a state in `DONE` is its container (R29). -/
theorem result_of_done {s : State} (h : s.phase = .done) : s.result = some (.ok ⟨s.count, s.start, s.words⟩) := by
  rw [State.result, State.container, h]

/-- The result of a state in `ERROR` is its error. -/
theorem result_of_error {s : State} {e : ReaderError} (h : s.phase = .error) (he : s.err = some e) :
    s.result = some (.error e) := by
  rw [State.result, State.container, h, he]
  rfl

/-- A source that ends within a field ends in its terminal event's error (R49, R50). -/
theorem reads_short (cap : Word) (t : Terminal) {bytes : List Byte} {s : State} (hr : s.phase.reading = true)
    (h : s.nbytes.val + bytes.length < 4) : Reads cap s (eventsOf bytes t) (.error t.shortError) := by
  induction bytes generalizing s with
  | nil =>
    cases t with
    | sourceEnd => exact ⟨_, feed_cons_of_next [] hr rfl, rfl⟩
    | fail => exact ⟨_, feed_cons_of_next [] hr rfl, rfl⟩
  | cons b rest ih =>
    rw [List.length_cons] at h
    have hsucc : (s.nbytes + 1).val = s.nbytes.val + 1 := by omega
    obtain ⟨u, hfeed, hu⟩ := ih (s := s.gather (shiftIn s.acc b)) hr (by rw [State.gather_nbytes, hsucc]; omega)
    exact ⟨u, (feed_byte_gathers hr (by omega)).trans hfeed, hu⟩

/-- Four bytes at the start of a field complete it, and reading goes on with the bytes behind them (R44). -/
theorem reads_field {cap : Word} {t : Terminal} {b0 b1 b2 b3 : Byte} {rest : List Byte} {s u : State}
    {r : Except ReaderError Container} (hr : s.phase.reading = true) (hn : s.nbytes = 0)
    (hc : completeField cap (beWord b0 b1 b2 b3) s.takeField = .next u) (h : Reads cap u (eventsOf rest t) r) :
    Reads cap s (eventsOf (b0 :: b1 :: b2 :: b3 :: rest) t) r := by
  obtain ⟨v, hfeed, hv⟩ := h
  exact ⟨v, (feed_four_bytes b0 b1 b2 b3 _ hr hn hc).trans hfeed, hv⟩

/-- A byte sequence is shorter than a field or begins with the four bytes of one. -/
theorem short_or_field (bytes : List Byte) :
    bytes.length < 4 ∨ ∃ b0 b1 b2 b3 rest, bytes = b0 :: b1 :: b2 :: b3 :: rest := by
  match bytes with
  | b0 :: b1 :: b2 :: b3 :: rest => exact .inr ⟨b0, b1, b2, b3, rest, rfl⟩
  | [] | [_] | [_, _] | [_, _, _] => exact .inl (by simp)

/-- A word behind the first field is a word of the bytes behind it. -/
theorem wordAt_behind_field (b0 b1 b2 b3 : Byte) (rest : List Byte) (offset : Nat) :
    wordAt (b0 :: b1 :: b2 :: b3 :: rest) (4 + offset) = wordAt rest offset := by
  rw [Nat.add_comm]
  rfl

/-- The words at the head of a byte sequence. -/
def firstWords (bytes : List Byte) (n : Nat) : List Word := (List.range n).map fun k => wordAt bytes (4 * k)

/-- The first words are the first field and the first words behind it. -/
theorem firstWords_succ (b0 b1 b2 b3 : Byte) (rest : List Byte) (n : Nat) :
    firstWords (b0 :: b1 :: b2 :: b3 :: rest) (n + 1) = beWord b0 b1 b2 b3 :: firstWords rest n := by
  rw [firstWords, List.range_succ_eq_map, List.map_cons, List.map_map]
  refine congrArg _ (List.map_congr_left fun k _ => ?_)
  rw [Function.comp_apply, Nat.mul_succ, Nat.add_comm, wordAt_behind_field]

/-- With room in the buffer a field completed in `WORDS` is stored, and reading ends exactly when it is the last (R48). -/
theorem completeField_of_words {cap : Word} {s : State} (v : Word) (hp : s.phase = .words) (hroom : s.index.toNat < cap.toNat) :
    completeField cap v s.takeField =
      .next ((s.takeField.putWord v).enter (if s.index + 1 = s.count then .done else .words)) := by
  simp only [completeField, State.takeField_phase, hp]
  exact storeWord_of_room (s := s.takeField) v hp hroom

/-- With `n` words to come the reader reads them, or comes to the end of the source (R48 to R50). -/
theorem reads_words (cap : Word) (t : Terminal) {n : Nat} {s : State} (bytes : List Byte)
    (hp : s.phase = if n = 0 then .done else .words) (hn : s.nbytes = 0) (hcount : s.index.toNat + n = s.count.toNat)
    (hcap : s.count.toNat ≤ cap.toNat) (hstore : s.StoreInv) :
    Reads cap s (eventsOf bytes t) (if bytes.length < 4 * n then .error t.shortError
      else .ok ⟨s.count, s.start, s.words ++ firstWords bytes n⟩) := by
  induction n generalizing s bytes with
  | zero =>
    rw [if_pos rfl] at hp
    rw [if_neg (by omega), show firstWords bytes 0 = [] from rfl, List.append_nil]
    exact ⟨s, feed_of_not_reading (by rw [hp]; rfl) _, result_of_done hp⟩
  | succ n ih =>
    rw [if_neg n.succ_ne_zero] at hp
    have hr : s.phase.reading = true := by rw [hp]; rfl
    rcases short_or_field bytes with hshort | ⟨b0, b1, b2, b3, rest, rfl⟩
    · rw [if_pos (by omega)]
      exact reads_short cap t hr (by rw [hn]; simpa using hshort)
    · have hmore : s.index.toNat < s.count.toNat := by omega
      have hlast : s.index + 1 = s.count ↔ n = 0 := by
        rw [← BitVec.toNat_inj, toNat_index_succ hmore]
        omega
      have hc := completeField_of_words (beWord b0 b1 b2 b3) hp (hmore.trans_le hcap)
      simp only [hlast] at hc
      have hstore' : (s.takeField.putWord (beWord b0 b1 b2 b3)).StoreInv := State.StoreInv.putWord (s := s.takeField) hstore hmore _
      have hwords : s.words ++ firstWords (b0 :: b1 :: b2 :: b3 :: rest) (n + 1) =
          (s.takeField.putWord (beWord b0 b1 b2 b3)).words ++ firstWords rest n := by
        rw [firstWords_succ, State.StoreInv.words_putWord (s := s.takeField) hstore, List.append_assoc]
        rfl
      have hlength : (b0 :: b1 :: b2 :: b3 :: rest).length < 4 * (n + 1) ↔ rest.length < 4 * n := by
        simp only [List.length_cons]
        omega
      simp only [hwords, hlength]
      refine reads_field hr hn hc (ih rest rfl rfl ?_ hcap hstore')
      rw [State.enter_index, State.putWord_index, State.takeField_index, toNat_index_succ hmore, State.enter_count,
        State.putWord_count, State.takeField_count]
      omega

/-- A header whose count fits goes on to its words, or ends reading if there are none (R47). -/
theorem endOfHeader_of_fits {cap : Word} {s : State} (h : s.count.toNat ≤ cap.toNat) :
    endOfHeader cap s = s.enter (if s.count.toNat = 0 then .done else .words) := by
  have hzero : s.count.toNat = 0 ↔ s.count = 0 := BitVec.toNat_inj (y := 0)
  rw [endOfHeader_eq, if_neg (by omega), apply_ite (s.enter ·)]
  simp only [hzero]

/-- With its header complete the reader raises `CapacityExceeded`, or reads the words the count announces (R47, R194). -/
theorem reads_endOfHeader (cap : Word) (t : Terminal) {s : State} (bytes : List Byte) (hn : s.nbytes = 0)
    (hindex : s.index = 0) (hbuf : s.buf = []) :
    Reads cap (endOfHeader cap s) (eventsOf bytes t) (if cap.toNat < s.count.toNat then .error .capacityExceeded
      else if bytes.length < 4 * s.count.toNat then .error t.shortError
      else .ok ⟨s.count, s.start, firstWords bytes s.count.toNat⟩) := by
  by_cases hcap : cap.toNat < s.count.toNat
  · rw [if_pos hcap, endOfHeader_eq, if_pos hcap]
    exact ⟨_, feed_of_not_reading rfl _, result_of_error rfl rfl⟩
  · have hstore : s.StoreInv := by
      rw [State.StoreInv, hbuf, hindex]
      rfl
    have hempty : s.words = [] := by
      rw [State.words, hbuf]
      rfl
    have hwords := reads_words cap t (s := s.enter (if s.count.toNat = 0 then .done else .words)) bytes rfl hn
      (by simp [hindex]) (not_lt.1 hcap) hstore
    rw [State.enter_count, State.enter_start, State.enter_words, hempty, List.nil_append] at hwords
    rwa [if_neg hcap, endOfHeader_of_fits (not_lt.1 hcap)]

/-- From `START` the reader reads the start address, and then the words if the count fits (R47). -/
theorem reads_start (cap : Word) (t : Terminal) {s : State} (bytes : List Byte) (hp : s.phase = .start) (hn : s.nbytes = 0)
    (hindex : s.index = 0) (hbuf : s.buf = []) :
    Reads cap s (eventsOf bytes t) (if bytes.length < 4 then .error t.shortError
      else if cap.toNat < s.count.toNat then .error .capacityExceeded
      else if bytes.length < 4 + 4 * s.count.toNat then .error t.shortError
      else .ok ⟨s.count, wordAt bytes 0, (List.range s.count.toNat).map fun k => wordAt bytes (4 + 4 * k)⟩) := by
  have hr : s.phase.reading = true := by rw [hp]; rfl
  rcases short_or_field bytes with hshort | ⟨b0, b1, b2, b3, rest, rfl⟩
  · rw [if_pos hshort]
    exact reads_short cap t hr (by rw [hn]; simpa using hshort)
  · have hc : completeField cap (beWord b0 b1 b2 b3) s.takeField =
        .next (endOfHeader cap (s.takeField.latchStart (beWord b0 b1 b2 b3))) := by
      simp only [completeField, State.takeField_phase, hp]
    have hlength : (b0 :: b1 :: b2 :: b3 :: rest).length < 4 + 4 * s.count.toNat ↔ rest.length < 4 * s.count.toNat := by
      simp only [List.length_cons]
      omega
    rw [if_neg (by simp)]
    simp only [hlength, wordAt_behind_field]
    exact reads_field hr hn hc
      (reads_endOfHeader cap t (s := s.takeField.latchStart (beWord b0 b1 b2 b3)) rest rfl hindex hbuf)

/-- Settles O55: the count is read, then what `reads_start` says, and these are the branches of `readContainer` (R52). -/
theorem theReaderAgreesWithItsFunctionalForm : Obligations.TheReaderAgreesWithItsFunctionalForm := by
  intro cap bytes t
  change Reads cap State.reset (eventsOf bytes t) (readContainer cap bytes t)
  rcases short_or_field bytes with hshort | ⟨b0, b1, b2, b3, rest, rfl⟩
  · rw [readContainer, if_pos (by omega)]
    exact reads_short cap t rfl (by simpa [State.reset] using hshort)
  · have hheader : (b0 :: b1 :: b2 :: b3 :: rest).length < 8 ↔ rest.length < 4 := by
      simp only [List.length_cons]
      omega
    have hlength (n : Nat) : (b0 :: b1 :: b2 :: b3 :: rest).length < 8 + 4 * n ↔ rest.length < 4 + 4 * n := by
      simp only [List.length_cons]
      omega
    have hword (k : Nat) : wordAt (b0 :: b1 :: b2 :: b3 :: rest) (8 + 4 * k) = wordAt rest (4 + 4 * k) := by
      rw [show 8 + 4 * k = 4 + (4 + 4 * k) by omega, wordAt_behind_field]
    simp only [readContainer, hheader, hlength, hword]
    exact reads_field rfl rfl rfl
      (reads_start cap t (s := State.reset.takeField.latchCount (beWord b0 b1 b2 b3)) rest rfl rfl rfl rfl)

/-! ### Runs of the machine -/

/-- A run that answers a next state has a first step, and goes on from there. -/
theorem run_succ_eq_next {M : Host.Core} {n : Nat} {s t : M.State} (h : M.run (n + 1) s = .next t) :
    ∃ u, M.step s = .next u ∧ M.run n u = .next t := by
  rw [Host.Core.run] at h
  cases hstep : M.step s with
  | next u => exact ⟨u, rfl, by simpa only [hstep] using h⟩
  | fault f => simp [hstep] at h
  | refused r => simp [hstep] at h

/-- A run goes on from where a shorter one has come. -/
theorem run_add {M : Host.Core} {n : Nat} {s t : M.State} (h : M.run n s = .next t) (k : Nat) :
    M.run (n + k) s = M.run k t := by
  induction n generalizing s with
  | zero =>
    obtain rfl : s = t := Host.Outcome.next.inj h
    rw [Nat.zero_add]
  | succ n ih =>
    obtain ⟨u, hstep, hrun⟩ := run_succ_eq_next h
    rw [Nat.add_right_comm, Host.Core.run, hstep]
    exact ih hrun

/-- Every state of a run from a state of the invariant meets it. -/
theorem State.Inv.run {n : Nat} {s t : State} (h : s.Inv) (hrun : Host.Core.run Sys2Proof.core n s = .next t) : t.Inv := by
  induction n generalizing s with
  | zero => exact Host.Outcome.next.inj hrun ▸ h
  | succ n ih =>
    obtain ⟨u, hstep, hrun⟩ := run_succ_eq_next hrun
    exact ih (everyStepKeepsTheInvariant s u h hstep) hrun

/-- The machine's reader steps on a source are the feeding of its events, up to the events left over (R43, R51). -/
theorem run_of_feed {es : List InputEvent} {s t : State} (h : feed Config.capWords es s = .next t) :
    ∃ n rest, Host.Core.run Sys2Proof.core n { s with input := es } = .next { t with input := rest } := by
  induction es generalizing s with
  | nil =>
    obtain rfl := Host.Outcome.next.inj h
    exact ⟨0, [], rfl⟩
  | cons e es ih =>
    cases hr : s.phase.reading with
    | false =>
      obtain rfl := Host.Outcome.next.inj ((feed_of_not_reading hr _).symm.trans h)
      exact ⟨0, e :: es, rfl⟩
    | true =>
      cases hread : readEvent Config.capWords e s with
      | next u =>
        have hstep : step { s with input := e :: es } = .next { u with input := es } :=
          (step_of_event (s := { s with input := e :: es }) hr rfl).trans (readEvent_ignores_input hread es)
        obtain ⟨n, rest, hrun⟩ := ih ((feed_cons_of_next es hr hread).symm.trans h)
        exact ⟨n + 1, rest, (run_of_step n hstep).trans hrun⟩
      | fault f => simp [feed, hr, hread] at h
      | refused r => simp [feed, hr, hread] at h

/-- From `DONE` the machine comes to the end of the pass with the same container (R214). -/
theorem State.Inv.run_to_end {s : State} (h : s.Inv) (hp : s.phase = .done) :
    ∃ n t, Host.Core.run Sys2Proof.core n s = .next t ∧ t.phase = .done ∧ t.cursor = t.count.toNat ∧
      t.container = s.container := by
  obtain ⟨-, -, -, -, ⟨hle, -, -⟩, -⟩ := id h
  obtain ⟨k, hk⟩ := Nat.exists_eq_add_of_le hle
  induction k generalizing s with
  | zero => exact ⟨0, s, rfl, hp, hk.symm, rfl⟩
  | succ k ih =>
    obtain ⟨d, hstep, hinv⟩ := h.step_lists hp (by omega)
    obtain ⟨n, t, hrun, ht, hcursor, hcontainer⟩ := ih hinv hp (by rw [State.list_cursor, State.list_count]; omega)
      (by rw [State.list_cursor, State.list_count]; omega)
    exact ⟨n + 1, t, (run_of_step n hstep).trans hrun, ht, hcursor, hcontainer⟩

/-! ### A whole pass -/

/-- A source that is its bytes and its terminal event has R43's form. -/
theorem sourceWf_eventsOf (bytes : List Byte) (t : Terminal) : sourceWf (eventsOf bytes t) = true := by
  induction bytes with
  | nil => cases t <;> rfl
  | cons b rest ih => exact ih

/-- A reading with a container as its result is in `DONE` and presents it (R29). -/
theorem container_of_result {s : State} {c : Container} (h : s.result = some (.ok c)) :
    s.phase = .done ∧ s.container = some c := by
  cases hp : s.phase
  case done =>
    rw [result_of_done hp] at h
    refine ⟨rfl, ?_⟩
    rw [State.container, hp, Except.ok.inj (Option.some.inj h)]
  all_goals simp [State.result, State.container, hp] at h

/-- A reading with an error as its result has set it (R191). -/
theorem err_of_result {s : State} {e : ReaderError} (h : s.result = some (.error e)) : s.err = some e := by
  cases hp : s.phase
  case done =>
    rw [result_of_done hp] at h
    cases h
  all_goals simpa [State.result, State.container, hp] using h

/-- A pass in `ERROR` has ended (R214). -/
theorem ended_of_error {s : State} (hp : s.phase = .error) : s.ended = true := by
  rw [State.ended, hp]

/-- A pass with every word listed has ended (R214). -/
theorem ended_of_finished {s : State} (hp : s.phase = .done) (hcursor : s.cursor = s.count.toNat) : s.ended = true := by
  rw [State.ended, hp]
  exact decide_eq_true hcursor.ge

/-- Under the invariant a reading that has ended in an error shows it with an empty listing (R201, R202). -/
theorem State.Inv.observation_of_error {s : State} (h : s.Inv) {e : ReaderError} (he : s.err = some e) :
    s.phase = .error ∧ s.observation = (some e, []) := by
  obtain ⟨⟨herr, -⟩, -⟩ := id h
  have hp : s.phase = .error := herr.1 (by rw [he]; rfl)
  exact ⟨hp, Prod.ext he (noLineWithoutACompleteContainer.2 s h hp)⟩

/-- Under the invariant a finished pass shows no error and its container's listing (R175, R202). -/
theorem State.Inv.observation_of_finished {s : State} (h : s.Inv) (hp : s.phase = .done) (hcursor : s.cursor = s.count.toNat)
    {c : Container} (hc : s.container = some c) : s.observation = (none, listingOf c) := by
  obtain ⟨⟨herr, -⟩, -⟩ := id h
  obtain ⟨c', hc', -, -, -, -, -, hlisting⟩ := aFinishedPassHasListedTheContainer s h hp hcursor
  obtain rfl : c' = c := Option.some.inj (hc'.symm.trans hc)
  have hnone : s.err = none := Option.not_isSome_iff_eq_none.1 fun hsome => by simp [herr.1 hsome] at hp
  exact Prod.ext hnone hlisting

/-- Settles O57: the reader ends with the result of O55; an error stays with an empty listing (O45, O46), and a container is listed
to its end (O54). -/
theorem aWholePassShowsItsResult : Obligations.AWholePassShowsItsResult := by
  intro bytes t
  obtain ⟨u, hfeed, hresult⟩ := theReaderAgreesWithItsFunctionalForm Config.capWords bytes t
  obtain ⟨n, rest, hread⟩ := run_of_feed hfeed
  have hinv := (boot_inv (sourceWf_eventsOf bytes t)).run hread
  cases hform : readContainer Config.capWords bytes t with
  | error e =>
    obtain ⟨hp, hobserved⟩ := hinv.observation_of_error (err_of_result (hform ▸ hresult))
    refine ⟨n, _, fun k => (run_add hread k).trans (errorsArePermanent k _ hp), ended_of_error hp, ?_⟩
    rw [hobserved, passResult, hform]
  | ok c =>
    obtain ⟨hp, hcontainer⟩ := container_of_result (hform ▸ hresult)
    obtain ⟨m, s, hlist, hs, hcursor, hsame⟩ := hinv.run_to_end hp
    have hstay : step s = .next s := (idleStepsChangeNothing s).2 hs hcursor.ge
    refine ⟨n + m, s, fun k => (run_add ((run_add hread m).trans hlist) k).trans (run_of_fixed hstay k),
      ended_of_finished hs hcursor, ?_⟩
    rw [(hinv.run hlist).observation_of_finished hs hcursor (hsame.trans hcontainer), passResult, hform]

end Sys2Proof.Machine
end
